-- ==== Sys2Proof/Word.lean ====
section
/-! DEFINITION. The block's word: 64 bits (spec/00_scope.md R4), and the byte of a bus lane. -/

namespace Sys2Proof

/-- A register word, 64 bits (R4). -/
abbrev Word := BitVec 64

/-- One byte lane of the bus (R29). -/
abbrev Byte := BitVec 8

end Sys2Proof
end

