-- ==== Sys2Proof/Syntax.lean ====
section
/-! DEFINITION. The commands of the block, one constructor per row of the opcode map
(spec/30_encoding.md R43), the fields of the one command format CMD64 (R40), and the names of
the sieve arrays (spec/10_state.md R21). -/

namespace Sys2Proof

/-- The fourteen commands. A command has no operand of its own: its operands are the latched
words L.A, L.B and L.M (R41). -/
inductive Instr where
  /-- `egcd` (R51). -/
  | egcd
  /-- `modmul` (R56). -/
  | modmul
  /-- `modmul.u` (R57). -/
  | modmulU
  /-- `modexp` (R59). -/
  | modexp
  /-- `modexp.u` (R60). -/
  | modexpU
  /-- `isprime` (R66). -/
  | isprime
  /-- `isprime.u` (R67). -/
  | isprimeU
  /-- `sieve.build` (R70). -/
  | sieveBuild
  /-- `sieve.spf` (R73). -/
  | sieveSpf
  /-- `sieve.exp` (R74). -/
  | sieveExp
  /-- `sieve.phi` (R75). -/
  | sievePhi
  /-- `sieve.mu` (R76). -/
  | sieveMu
  /-- `sieve.prime` (R77). -/
  | sievePrime
  /-- `sieve.isprime` (R78). -/
  | sieveIsprime
deriving DecidableEq, Repr

/-- The fields of a 64-bit command word in the format CMD64 (R40). -/
structure CommandWord where
  /-- bits 7:0 -/
  opc : BitVec 8
  /-- bit 8: the operand interpretation, 1 = unsigned -/
  u : Bool
  /-- bits 63:9, reserved, must be 0 -/
  rsv : BitVec 55
deriving DecidableEq, Repr

/-- The arrays of the sieve table and its prime list (R21). -/
inductive SieveArray where
  | spf
  | expt
  | phi
  | mu
  | primes
deriving DecidableEq, Repr

end Sys2Proof
end

