-- ==== Sys2Proof/Config.lean ====
section
/-! DEFINITION. What an implementation fixes and the spec leaves OPEN (spec/00_scope.md R4): the
sieve capacity, the window's base address; and the free value of an unlisted sieve entry. Each is
a constant with no body, so that no proof can see its value. -/

namespace Sys2Proof

/-- The implementation's sieve capacity before the bounds of R4 are applied (log 11). -/
opaque Config.sieveCapacity : BitVec 32

/-- SIEVE_NMAX, with 30 ≤ SIEVE_NMAX ≤ 2³²−1 (R4, decision D18). -/
def Config.sieveNMax : Nat := max 30 Config.sieveCapacity.toNat

/-- The implementation's choice of base page. DESIGN CHOICE (log 12): the spec states no width of a
platform address, and the model bounds it nowhere: the page is any natural number. -/
opaque Config.nxmBasePage : Nat

/-- NXM_BASE, the platform address of the register window, 256-byte aligned (R4, R27). -/
def Config.nxmBase : Nat := 256 * Config.nxmBasePage

/-- What an entry of the sieve table that no build has listed would read as: "unspecified and no
rule reads them" (R21, R95). A free value of the array and the index (log 10). -/
opaque Config.unlistedEntry : SieveArray → Nat → BitVec 32

end Sys2Proof
end

