-- ==== Sys2Proof/WellFormed.lean ====
section
/-! DEFINITION. When a command word is one of the legal words: the three checks of
spec/30_encoding.md R44, written from the opcode lists of that rule (the decoder of
Sys2Proof/Decode.lean is written from the opcode map R43). -/

namespace Sys2Proof

/-- The assigned opcodes, as R44 lists them. -/
def assignedOpcodes : List (BitVec 8) :=
  [0x01, 0x02, 0x03, 0x04, 0x10, 0x11, 0x12, 0x13, 0x14, 0x15, 0x16]

/-- The opcodes that define the U bit, as R42 and R44 list them. -/
def unsignedOpcodes : List (BitVec 8) := [0x02, 0x03, 0x04]

/-- The opcode is assigned (first check of R44). -/
def CommandWord.opcodeAssigned (c : CommandWord) : Bool := assignedOpcodes.contains c.opc

/-- Bits 63:9 are 0 (second check of R44). -/
def CommandWord.reservedClear (c : CommandWord) : Bool := c.rsv == 0

/-- U = 1 only where the command defines it (third check of R44). -/
def CommandWord.uAllowed (c : CommandWord) : Bool := !c.u || unsignedOpcodes.contains c.opc

/-- A command word that passes all three checks. -/
def CommandWord.wellFormed (c : CommandWord) : Bool :=
  c.opcodeAssigned && c.reservedClear && c.uAllowed

end Sys2Proof
end

