-- ==== Sys2Proof/Decode.lean ====
section
/-! DEFINITION. Decoding a command word (spec/30_encoding.md R44), the encoder (R43), and the
little-endian byte lanes of a word (spec/20_memory.md R29). -/

namespace Sys2Proof

/-- Why a command word is illegal: the details of ILLEGAL_COMMAND (R44, R80). -/
inductive DecodeRefusal where
  /-- RESERVED_OPCODE: OPC is not assigned. -/
  | reservedOpcode
  /-- RESERVED_BITS: bits 63:9 are not all 0. -/
  | reservedBits
  /-- U_NOT_ALLOWED: U = 1 on a command that does not define it. -/
  | uNotAllowed
deriving DecidableEq, Repr

/-- The fields of a word (R40). -/
def splitWord (w : Word) : CommandWord where
  opc := w.extractLsb' 0 8
  u := w.getLsbD 8
  rsv := w.extractLsb' 9 55

/-- The word with the given fields (R40). -/
def packWord (c : CommandWord) : Word := c.rsv ++ BitVec.ofBool c.u ++ c.opc

/-- The opcode map R43: which command an opcode and a U bit name, if any. -/
def opcodeMap (opc : BitVec 8) (u : Bool) : Option Instr :=
  match opc.toNat, u with
  | 0x01, false => some .egcd
  | 0x02, false => some .modmul
  | 0x02, true => some .modmulU
  | 0x03, false => some .modexp
  | 0x03, true => some .modexpU
  | 0x04, false => some .isprime
  | 0x04, true => some .isprimeU
  | 0x10, false => some .sieveBuild
  | 0x11, false => some .sieveSpf
  | 0x12, false => some .sieveExp
  | 0x13, false => some .sievePhi
  | 0x14, false => some .sieveMu
  | 0x15, false => some .sievePrime
  | 0x16, false => some .sieveIsprime
  | _, _ => none

/-- Decode (R44): reserved opcode first, then reserved bits, then the U bit. Every assigned opcode
has a row with U = 0 (R43), so the first check asks for that row. -/
def decodeFields (c : CommandWord) : Except DecodeRefusal Instr :=
  match opcodeMap c.opc false with
  | none => .error .reservedOpcode
  | some plain =>
    if c.rsv ≠ 0 then .error .reservedBits
    else if c.u then
      match opcodeMap c.opc true with
      | none => .error .uNotAllowed
      | some i => .ok i
    else .ok plain

/-- Decode of a 64-bit command word, total (R44, R45). -/
def decode (w : Word) : Except DecodeRefusal Instr := decodeFields (splitWord w)

/-- The encoding fields of a command (R43): its opcode and its U bit; RSV is 0. -/
def Instr.fields (i : Instr) : CommandWord :=
  match i with
  | .egcd => ⟨0x01, false, 0⟩
  | .modmul => ⟨0x02, false, 0⟩
  | .modmulU => ⟨0x02, true, 0⟩
  | .modexp => ⟨0x03, false, 0⟩
  | .modexpU => ⟨0x03, true, 0⟩
  | .isprime => ⟨0x04, false, 0⟩
  | .isprimeU => ⟨0x04, true, 0⟩
  | .sieveBuild => ⟨0x10, false, 0⟩
  | .sieveSpf => ⟨0x11, false, 0⟩
  | .sieveExp => ⟨0x12, false, 0⟩
  | .sievePhi => ⟨0x13, false, 0⟩
  | .sieveMu => ⟨0x14, false, 0⟩
  | .sievePrime => ⟨0x15, false, 0⟩
  | .sieveIsprime => ⟨0x16, false, 0⟩

/-- The command word of a command (R43). -/
def encode (i : Instr) : Word := packWord i.fields

/-- A command is well-formed when the word it is written as passes the checks of R44. -/
def Instr.wellFormed (i : Instr) : Bool := i.fields.wellFormed

/-- Byte lane `k` of a word: bits [8k+7:8k] (R29). -/
def byteLane (v : Word) (k : Nat) : Byte := v.extractLsb' (8 * k) 8

/-- The eight byte lanes of a word, the lowest address first (R29). -/
def toLanes (v : Word) : List Byte := (List.range 8).map (byteLane v)

/-- The number that byte lanes make, the lowest address least significant (R29). -/
def lanesValue : List Byte → Nat
  | [] => 0
  | b :: bs => b.toNat + 256 * lanesValue bs

/-- The word in exactly eight byte lanes; any other number of lanes is refused (R28, R46). -/
def fromLanes (bs : List Byte) : Option Word :=
  if bs.length = 8 then some (BitVec.ofNat 64 (lanesValue bs)) else none

/-- The command in eight byte lanes, if they hold a legal word. Total on any bytes. -/
def decodeLanes (bs : List Byte) : Option Instr :=
  match fromLanes bs with
  | none => none
  | some w => (decode w).toOption

/-- The word whose low `nbits` bits are those of `w`, every bit above them 0. -/
def tableWord (nbits w : Nat) : Word := BitVec.ofNat 64 (w % 2 ^ nbits)

/-- The command the decoder reads from a row's bits: laid out in byte lanes as R29 orders them,
read back and decoded. -/
def decodeTableWord (nbits w : Nat) : Option Instr := decodeLanes (toLanes (tableWord nbits w))

end Sys2Proof
end

