-- ==== Sys2Proof/Machine/State.lean ====
section
/-! DEFINITION. The state of the block (spec/10_state.md R9–R24), its reset (spec/70_reset_and_hazards.md
R93), and the inputs the outside world presents to it (spec/20_memory.md R27–R31). Plain data. -/

namespace Sys2Proof.Machine

/-- The flags of STATUS (R12); bits 63:5 are reserved, read 0 and are not stored. -/
structure Status where
  /-- bit 0: a command has been accepted and has not completed -/
  busy : Bool
  /-- bit 1: the most recently accepted command has completed -/
  done : Bool
  /-- bit 2: the most recently completed command failed -/
  err : Bool
  /-- bit 3: the sieve table holds a complete table for bound SIEVE_N -/
  svalid : Bool
  /-- bit 4: a CMD write was dropped because BUSY was 1 -/
  ovr : Bool
deriving DecidableEq, Repr

/-- The fields of ERROR (R13); bits 63:24 are reserved, read 0 and are not stored. -/
structure ErrorRecord where
  /-- bits 7:0 -/
  cause : BitVec 8
  /-- bits 15:8 -/
  detail : BitVec 8
  /-- bits 23:16: bits [7:0] of the failed command word -/
  eopc : BitVec 8
deriving DecidableEq, Repr

/-- The fields of INTR (R14); bits 63:2 are reserved, read 0 and are not stored. -/
structure Intr where
  /-- bit 0: a command has completed since PEND was last cleared -/
  pend : Bool
  /-- bit 1: interrupt enable -/
  ie : Bool
deriving DecidableEq, Repr

/-- The command latch L (R23). L.OPC and L.U are views of `w` (Machine/Operands.lean). -/
structure Latch where
  /-- L.W, the accepted command word -/
  w : Word
  /-- L.A, OPA at accept -/
  a : Word
  /-- L.B, OPB at accept -/
  b : Word
  /-- L.M, OPM at accept -/
  m : Word
deriving DecidableEq, Repr

/-- The sieve table (R21): four arrays listed from index 0, and the ordered prime list. What a list
does not reach is unspecified (log 9, 10). -/
structure SieveTable where
  spf : List Nat
  expt : List Nat
  phi : List Nat
  mu : List Int
  primes : List Nat
deriving DecidableEq, Repr

/-- The registers of the window (R9). -/
inductive Reg where
  | id
  | cmd
  | status
  | error
  | intr
  | opa
  | opb
  | opm
  | res0
  | res1
  | res2
  | sieveN
  | sieveCount
  | param
deriving DecidableEq, Repr

/-- A bus access by the host (R8, R27). `offset` is the byte address less NXM_BASE (log 12). -/
inductive Access where
  /-- `MemRead(NXM_BASE + offset, size)` -/
  | read (offset : Int) (size : Nat)
  /-- `MemWrite(NXM_BASE + offset, size, value)` -/
  | write (offset : Int) (size : Nat) (value : Word)
deriving DecidableEq, Repr

/-- What the bus answered to the last access (R27, R28). The model's own record (log 18). -/
inductive BusResponse where
  /-- no access has been answered since reset -/
  | idle
  /-- a read returned this register value (R27) -/
  | data (value : Word)
  /-- a write was performed or ignored without error (R30) -/
  | written
  /-- the access was refused with a bus error response (R28) -/
  | busError
  /-- the access came while reset was asserted: no defined response (R93) -/
  | undefinedInReset
deriving DecidableEq, Repr

/-- One bus cycle as the outside world presents it: the reset input, at most one access, and
whether the running command's completion falls in this cycle (R86, R101; log 1, 2, 3). -/
structure Cycle where
  /-- the level of the reset input (R93) -/
  reset : Bool
  /-- the access the bus presents, if any -/
  access : Option Access
  /-- the completion of the running command, if one runs, falls in this cycle -/
  completes : Bool
  /-- where R86 leaves the order of access and completion open: the completion comes first -/
  completionFirst : Bool
deriving DecidableEq, Repr

/-- The state of the block. `response` and `agenda` are the model's own fields (INVENTORY.md). -/
structure State where
  /-- OPA (R15) -/
  opa : Word
  /-- OPB (R15) -/
  opb : Word
  /-- OPM (R15) -/
  opm : Word
  /-- RES0 (R16) -/
  res0 : Word
  /-- RES1 (R16) -/
  res1 : Word
  /-- RES2 (R16) -/
  res2 : Word
  /-- STATUS (R12); BUSY is also the phase of R24 -/
  status : Status
  /-- ERROR (R13) -/
  error : ErrorRecord
  /-- INTR (R14) -/
  intr : Intr
  /-- SIEVE_N (R17) -/
  sieveN : Word
  /-- SIEVE_COUNT (R17) -/
  sieveCount : Word
  /-- the command latch L (R23) -/
  latch : Latch
  /-- the sieve table (R21) -/
  table : SieveTable
  /-- what the bus answered to the last access (model's own) -/
  response : BusResponse
  /-- the bus cycles still to come, the next first (model's own) -/
  agenda : List Cycle
deriving DecidableEq, Repr

/-- Why the model stops with a fault. -/
inductive Fault where
  /-- Raised by a host access whose first byte lies outside NXM_BASE … NXM_BASE+0xFF: it does not
  address this block (R27). Safe: the model stops where the platform goes on (log 5). -/
  | outsideWindow
deriving DecidableEq, Repr

/-- Why an instruction has no meaning. -/
inductive Refusal where
  /-- Raised by `exec` alone, for a command that has no meaning yet. No arm raises it. Safe. -/
  | notModelled (mnemonic : String)
deriving DecidableEq, Repr

/-- A table with nothing listed: the contents after reset are unspecified, "any value there, or
none" (R95; log 9). -/
def SieveTable.unlisted : SieveTable := ⟨[], [], [], [], []⟩

/-- The state after reset (R93). The latch (log 8), the table (log 9), `response` (log 18) and
`agenda` (log 1) are DESIGN CHOICE; the spec gives every other value. -/
def State.reset : State where
  opa := 0
  opb := 0
  opm := 0
  res0 := 0
  res1 := 0
  res2 := 0
  status := ⟨false, false, false, false, false⟩
  error := ⟨0, 0, 0⟩
  intr := ⟨false, false⟩
  sieveN := 0
  sieveCount := 0
  latch := ⟨0, 0, 0, 0⟩
  table := SieveTable.unlisted
  response := .idle
  agenda := []

end Sys2Proof.Machine
end

