-- ==== Sys2Proof/Machine/Flags.lean ====
section
/-! DEFINITION. How the flag fields make register words (spec/10_state.md R12–R14), the error codes
(spec/60_exceptions.md R79, R80), the interrupt output (R85), and what an accept, a completion and
an error completion do to the flags (R25, R26, R82). -/

namespace Sys2Proof.Machine

/-- The word STATUS reads as (R12). -/
def Status.word (f : Status) : Word :=
  0#59 ++ BitVec.ofBool f.ovr ++ BitVec.ofBool f.svalid ++ BitVec.ofBool f.err ++
    BitVec.ofBool f.done ++ BitVec.ofBool f.busy

/-- The word ERROR reads as: {EOPC, DETAIL, CAUSE} zero-extended (R13, R82). -/
def ErrorRecord.word (e : ErrorRecord) : Word := 0#40 ++ e.eopc ++ e.detail ++ e.cause

/-- The word INTR reads as (R14). -/
def Intr.word (f : Intr) : Word := 0#62 ++ BitVec.ofBool f.ie ++ BitVec.ofBool f.pend

/-- The output `irq` = PEND ∧ IE (R85). -/
def State.irq (s : State) : Bool := s.intr.pend && s.intr.ie

/-- The errors a command can raise (R80). -/
inductive CommandError where
  /-- `m = 0` -/
  | zeroModulus
  /-- `y < 0` -/
  | negExponent
  /-- `m < 0` -/
  | negModulus
  /-- `N = 0` or `N > SIEVE_NMAX` -/
  | sieveBound
  /-- STATUS.SVALID = 0 -/
  | notBuilt
  /-- the index is beyond the array's limit -/
  | indexRange
  /-- the command word is illegal (R44) -/
  | illegal (why : DecodeRefusal)
deriving DecidableEq, Repr

/-- CAUSE (R79, R80). -/
def CommandError.cause (e : CommandError) : BitVec 8 :=
  match e with
  | .zeroModulus => 1
  | .negExponent => 2
  | .negModulus => 2
  | .sieveBound => 2
  | .notBuilt => 2
  | .indexRange => 2
  | .illegal _ => 3

/-- DETAIL (R80). -/
def CommandError.detail (e : CommandError) : BitVec 8 :=
  match e with
  | .zeroModulus => 1
  | .negExponent => 1
  | .negModulus => 2
  | .sieveBound => 3
  | .notBuilt => 4
  | .indexRange => 5
  | .illegal .reservedOpcode => 1
  | .illegal .reservedBits => 2
  | .illegal .uNotAllowed => 3

/-- ERROR while no error is recorded: it reads 0 (R13, R25). -/
def ErrorRecord.clear : ErrorRecord := ⟨0, 0, 0⟩

/-- What an accept does to STATUS: BUSY 1, DONE, ERR and OVR 0; SVALID kept (R25). -/
def Status.accepted (f : Status) : Status :=
  { f with busy := true, done := false, err := false, ovr := false }

/-- What every completion does to STATUS: BUSY 0, DONE 1 (R26, R82). -/
def Status.completed (f : Status) : Status := { f with busy := false, done := true }

/-- What an error completion does to STATUS beyond `completed`: ERR 1 (R82). -/
def Status.failed (f : Status) : Status := { f with err := true }

/-- What a dropped CMD write does to STATUS: OVR 1 (R97). -/
def Status.overrun (f : Status) : Status := { f with ovr := true }

/-- What a build does to STATUS: SVALID 1 (R70). -/
def Status.tableValid (f : Status) : Status := { f with svalid := true }

/-- What a host write does to INTR: PEND cleared if bit 0 is 1, IE takes bit 1 (R14, R30). -/
def Intr.hostWrite (f : Intr) (v : Word) : Intr where
  pend := f.pend && !v.getLsbD 0
  ie := v.getLsbD 1

end Sys2Proof.Machine
end

