-- ==== Sys2Proof/Machine/Operands.lean ====
section
/-! DEFINITION. How a command reads its latched operands (spec/30_encoding.md R41, R42;
spec/00_scope.md R6, R7), and the operand checks ModOperands (spec/41_modular.md R54), the bound
check of sieve.build (spec/43_sieve.md R70) and SieveIndex (R72). -/

namespace Sys2Proof.Machine

/-- `uint64(w)` (R6). -/
def uint64 (w : Word) : Int := w.toNat

/-- `sint64(w) = w − 2⁶⁴·w[63]`, two's complement (R6). -/
def sint64 (w : Word) : Int := w.toInt

/-- `enc64(v) = v mod 2⁶⁴` as a word (R6). -/
def enc64 (v : Int) : Word := BitVec.ofInt 64 v

/-- `sgn(a)` (R7). -/
def sgn (a : Int) : Int := if a < 0 then -1 else if a = 0 then 0 else 1

/-- L.OPC = L.W[7:0] (R23). -/
def Latch.opc (l : Latch) : BitVec 8 := l.w.extractLsb' 0 8

/-- L.U = L.W[8] (R23). -/
def Latch.u (l : Latch) : Bool := l.w.getLsbD 8

/-- How a command with the given U reads an operand word (R42). -/
def readOperand (u : Bool) (w : Word) : Int := if u then uint64 w else sint64 w

/-- The operands of a modular command after `ModOperands`: `0 ≤ x < m`, `0 ≤ y < 2⁶⁴`,
`1 ≤ m < 2⁶⁴` (R54). -/
structure ModArgs where
  x : Nat
  y : Nat
  m : Nat
deriving DecidableEq, Repr

/-- `ModOperands(L)`: zero modulus first, then negative modulus, then negative `y`; `x` is reduced
to its canonical residue (R54, R83). `u` is the U bit of the command's row (R56, R57, R59, R60). -/
def modOperands (u : Bool) (l : Latch) : Except CommandError ModArgs :=
  let x := readOperand u l.a
  let y := readOperand u l.b
  let m := readOperand u l.m
  if m = 0 then .error .zeroModulus
  else if m < 0 then .error .negModulus
  else if y < 0 then .error .negExponent
  else .ok ⟨(x % m).toNat, y.toNat, m.toNat⟩

/-- `N < 1 or N > SIEVE_NMAX` (R70). The last two disjuncts say `N > SIEVE_NMAX` for a SIEVE_NMAX
that is at least 30 and at most 2³²−1 (R4), in a form that decides without SIEVE_NMAX outside that
range (log 11; Laws/Operands.lean proves them equal). -/
def sieveBoundFails (n : Nat) : Bool :=
  decide (n < 1) || decide (2 ^ 32 - 1 < n) || (decide (30 < n) && decide (Config.sieveNMax < n))

/-- The bound `N` of a build: `uint64(L.A)`, checked (R70). -/
def sieveBound (l : Latch) : Except CommandError Nat :=
  if sieveBoundFails l.a.toNat then .error .sieveBound else .ok l.a.toNat

/-- `SieveIndex(L, limit)`: NOT_BUILT first, then INDEX_RANGE; the index is read unsigned (R72). -/
def sieveIndex (s : State) (limit : Int) : Except CommandError Nat :=
  if s.status.svalid = false then .error .notBuilt
  else if limit < uint64 s.latch.a then .error .indexRange
  else .ok s.latch.a.toNat

/-- The limit of the per-integer arrays: SIEVE_N (R72). -/
def arrayLimit (s : State) : Int := uint64 s.sieveN

/-- The limit of the prime list: SIEVE_COUNT − 1 over ℤ (R72, R77). -/
def primesLimit (s : State) : Int := uint64 s.sieveCount - 1

end Sys2Proof.Machine
end

