-- ==== Sys2Proof/Machine/Ops.lean ====
section
/-! DEFINITION. The named operations of the block: the register window (spec/10_state.md R9–R18,
spec/20_memory.md R27–R31), the sieve table's reads (R32), accept (R25), completion (R26), the error
completion that is the block's trap entry (spec/60_exceptions.md R82), and reset
(spec/70_reset_and_hazards.md R93, R94). There is no return from a trap (R84). -/

namespace Sys2Proof.Machine

/-! ### The register window -/

/-- The constant of the ID register (R10). -/
def idWord : Word := 0x4E584D3634070001

/-- The word PARAM reads as: zext_64(SIEVE_NMAX) (R18). -/
def paramWord : Word := BitVec.ofNat 64 Config.sieveNMax

/-- The byte offset of a register in the window (R9). -/
def Reg.offset (r : Reg) : Nat :=
  match r with
  | .id => 0x00
  | .cmd => 0x08
  | .status => 0x10
  | .error => 0x18
  | .intr => 0x20
  | .opa => 0x28
  | .opb => 0x30
  | .opm => 0x38
  | .res0 => 0x40
  | .res1 => 0x48
  | .res2 => 0x50
  | .sieveN => 0x58
  | .sieveCount => 0x60
  | .param => 0x68

/-- The register at an offset; none at the reserved offsets 0x70–0xF8 (R9, R30). -/
def regAt (offset : Int) : Option Reg :=
  match offset.toNat with
  | 0x00 => some .id
  | 0x08 => some .cmd
  | 0x10 => some .status
  | 0x18 => some .error
  | 0x20 => some .intr
  | 0x28 => some .opa
  | 0x30 => some .opb
  | 0x38 => some .opm
  | 0x40 => some .res0
  | 0x48 => some .res1
  | 0x50 => some .res2
  | 0x58 => some .sieveN
  | 0x60 => some .sieveCount
  | 0x68 => some .param
  | _ => none

/-- The value a read of a register returns (R30); CMD reads 0 (R11). -/
def readReg (r : Reg) (s : State) : Word :=
  match r with
  | .id => idWord
  | .cmd => 0
  | .status => s.status.word
  | .error => s.error.word
  | .intr => s.intr.word
  | .opa => s.opa
  | .opb => s.opb
  | .opm => s.opm
  | .res0 => s.res0
  | .res1 => s.res1
  | .res2 => s.res2
  | .sieveN => s.sieveN
  | .sieveCount => s.sieveCount
  | .param => paramWord

/-- Accept of a command word: the latch takes the word and the operand registers, the flags say
BUSY, and ERROR is cleared; nothing else changes (R25). -/
def accept (w : Word) (s : State) : State :=
  { s with
    latch := ⟨w, s.opa, s.opb, s.opm⟩
    status := s.status.accepted
    error := ErrorRecord.clear }

/-- A CMD write while BUSY is dropped and sets OVR (R97). -/
def dropCommand (s : State) : State := { s with status := s.status.overrun }

/-- A host write to CMD: accepted when idle, dropped when BUSY (R11). -/
def writeCmd (w : Word) (s : State) : State := if s.status.busy then dropCommand s else accept w s

/-- The write action of a register (R30): read-only registers ignore it. -/
def writeReg (r : Reg) (v : Word) (s : State) : State :=
  match r with
  | .cmd => writeCmd v s
  | .intr => { s with intr := s.intr.hostWrite v }
  | .opa => { s with opa := v }
  | .opb => { s with opb := v }
  | .opm => { s with opm := v }
  | .id => s
  | .status => s
  | .error => s
  | .res0 => s
  | .res1 => s
  | .res2 => s
  | .sieveN => s
  | .sieveCount => s
  | .param => s

/-- A read at an admitted offset; a reserved offset reads 0 (R30). -/
def readOffset (offset : Int) (s : State) : Word :=
  match regAt offset with
  | some r => readReg r s
  | none => 0

/-- A write at an admitted offset; a reserved offset ignores it (R30). -/
def writeOffset (offset : Int) (v : Word) (s : State) : State :=
  match regAt offset with
  | some r => writeReg r v s
  | none => s

/-! ### Host accesses -/

/-- The offset of an access. -/
def Access.offset (a : Access) : Int :=
  match a with
  | .read o _ => o
  | .write o _ _ => o

/-- The size of an access in bytes. -/
def Access.size (a : Access) : Nat :=
  match a with
  | .read _ n => n
  | .write _ n _ => n

/-- `MemRead(addr, n)` at a platform address (R8, R27). -/
def memRead (addr : Nat) (n : Nat) : Access := .read ((addr : Int) - Config.nxmBase) n

/-- `MemWrite(addr, n, v)` at a platform address (R8, R27). -/
def memWrite (addr : Nat) (n : Nat) (v : Word) : Access :=
  .write ((addr : Int) - Config.nxmBase) n v

/-- The access addresses the block's window of 256 bytes (R27). DESIGN CHOICE (log 5): the address of
its first byte alone decides. The spec does not say what an access does that starts below the window
and reaches into it; the model judges it outside. One that starts inside and reaches past the end is
inside, and R28 refuses it. -/
def Access.inWindow (a : Access) : Bool := decide (0 ≤ a.offset) && decide (a.offset ≤ 0xFF)

/-- The access is one the block admits: 8 bytes at a multiple of 8 (R28). -/
def Access.admitted (a : Access) : Bool := decide (a.size = 8) && decide (a.offset % 8 = 0)

/-- The effect and the response of an admitted access (R27, R30). -/
def performAccess (a : Access) (s : State) : State :=
  match a with
  | .read o _ => { s with response := .data (readOffset o s) }
  | .write o _ v => { writeOffset o v s with response := .written }

/-- A host access: performed when admitted, refused with a bus error and no effect on the block
when not (R28; log 4); an access whose first byte lies outside the window is not this block's (log 5). -/
def hostAccess (a : Access) (s : State) : Host.Outcome State Fault Refusal :=
  if a.inWindow then
    if a.admitted then .next (performAccess a s) else .next { s with response := .busError }
  else .fault .outsideWindow

/-! ### Completion -/

/-- What every completion writes: BUSY 0, DONE 1, PEND 1 (R26, R82). -/
def finish (s : State) : State :=
  { s with status := s.status.completed, intr := { s.intr with pend := true } }

/-- The error record of a failed command: EOPC from the latched word (R82). -/
def errorRecord (e : CommandError) (l : Latch) : ErrorRecord := ⟨e.cause, e.detail, l.opc⟩

/-- The error completion, the block's one trap entry: ERROR, ERR, DONE, BUSY and PEND, and nothing
else (R82). -/
def completeError (e : CommandError) (s : State) : State :=
  finish { s with error := errorRecord e s.latch, status := s.status.failed }

/-- The completion of a command: `outcome` is the state with the success path's writes, or the error
it raised (R26). -/
def settle (outcome : Except CommandError State) (s : State) : Host.Outcome State Fault Refusal :=
  match outcome with
  | .error e => .next (completeError e s)
  | .ok t => .next (finish t)

/-- The write of RES0 by a successful completion (R16). -/
def setRes0 (v : Word) (s : State) : State := { s with res0 := v }

/-- The write of all three result registers by a successful completion (R16, R41). -/
def setResults (v0 v1 v2 : Word) (s : State) : State :=
  { s with res0 := v0, res1 := v1, res2 := v2 }

/-! ### The sieve table's reads -/

/-- An entry of a list of naturals, or the free value where the list does not reach (log 10). -/
def listedNat (arr : SieveArray) (entries : List Nat) (k : Nat) : Int :=
  match entries[k]? with
  | some v => v
  | none => (Config.unlistedEntry arr k).toNat

/-- An entry of a list of integers, or the free value where the list does not reach (log 10). -/
def listedInt (arr : SieveArray) (entries : List Int) (k : Nat) : Int :=
  match entries[k]? with
  | some v => v
  | none => (Config.unlistedEntry arr k).toInt

/-- `SieveRead(arr, k)` (R8, R32). -/
def sieveRead (arr : SieveArray) (k : Nat) (t : SieveTable) : Int :=
  match arr with
  | .spf => listedNat .spf t.spf k
  | .expt => listedNat .expt t.expt k
  | .phi => listedNat .phi t.phi k
  | .mu => listedInt .mu t.mu k
  | .primes => listedNat .primes t.primes k

/-! ### Reset -/

/-- Reset asserted in a cycle: every field takes its value of R93, a command in progress is
abandoned (R94), an access gets no defined response (log 6); the cycles to come are the world's. -/
def resetBlock (access : Option Access) (s : State) : State :=
  { State.reset with
    response := if access.isSome then .undefinedInReset else .idle
    agenda := s.agenda }

end Sys2Proof.Machine
end

