-- ==== Sys2Proof/Machine/Euclid.lean ====
section
/-! DEFINITION. The extended Euclidean gcd: command `egcd` (spec/40_extended_euclid.md). -/

namespace Sys2Proof.Machine

/-- The loop of EgcdRaw (R49), at most `fuel` iterations. -/
def egcdLoop : Nat → Int → Int → Int → Int → Nat → Nat → Nat × Int × Int
  | 0, x, _, y, _, a1, _ => (a1, x, y)
  | fuel + 1, x, x1, y, y1, a1, b1 =>
    if b1 = 0 then (a1, x, y)
    else
      let q := a1 / b1
      egcdLoop fuel x1 (x - q * x1) y1 (y - q * y1) b1 (a1 - q * b1)

/-- `EgcdRaw(A, B)`: the gcd and a Bézout pair (R49). The remainder falls at every iteration, so
`B + 1` iterations are enough (log 15). -/
def egcdRaw (A B : Nat) : Nat × Int × Int := egcdLoop (B + 1) 1 0 0 1 A B

/-- `Canon(a, b, g, xa, yb)`: coeffA in [0, |b|/g), coeffB from the identity (R50). -/
def canon (a b : Int) (g : Nat) (xa : Int) : Int × Int :=
  let bg : Int := (b.natAbs / g : Nat)
  let cA := xa % bg
  let cB := (g - a * cA) / b
  (cA, cB)

/-- The BezoutResult (gcd, coeffA, coeffB) of two integers: the fallback (0, 0, 0) if either is zero,
else the gcd and the canonical pair (R51). -/
def bezout (a b : Int) : Int × Int × Int :=
  if a = 0 ∨ b = 0 then (0, 0, 0)
  else
    let (g, x, _) := egcdRaw a.natAbs b.natAbs
    let (cA, cB) := canon a b g (sgn a * x)
    (g, cA, cB)

/-- `egcd` (R51): no operand makes it fail. -/
def execEgcd (s : State) : Host.Outcome State Fault Refusal :=
  let r := bezout (sint64 s.latch.a) (sint64 s.latch.b)
  settle (.ok (setResults (enc64 r.1) (enc64 r.2.1) (enc64 r.2.2) s)) s

end Sys2Proof.Machine
end

