-- ==== Sys2Proof/Machine/Modular.lean ====
section
/-! DEFINITION. Modular multiply and modular exponentiation (spec/41_modular.md). Every value is an
exact integer (R61); the 128-bit datapath is never exceeded (R53). -/

namespace Sys2Proof.Machine

/-- `WideMul(a, b) = a·b`, exact (R53). -/
def wideMul (a b : Nat) : Nat := a * b

/-- `WideAdd(a, b) = a + b`, exact (R53). -/
def wideAdd (a b : Nat) : Nat := a + b

/-- `WideMod(p, m) = p mod m` (R53). -/
def wideMod (p m : Nat) : Nat := p % m

/-- The number of bits of a multiplier or exponent: the loops of R55 and R58 "end after at most 64
iterations" (log 15). -/
def operandBits : Nat := 64

/-- The loop of MulMod (R55), at most `fuel` iterations. -/
def mulModLoop : Nat → Nat → Nat → Nat → Nat → Nat
  | 0, acc, _, _, _ => acc
  | fuel + 1, acc, t, e, m =>
    if e = 0 then acc
    else
      let acc' := if e % 2 = 1 then wideMod (wideAdd acc t) m else acc
      mulModLoop fuel acc' (wideMod (wideAdd t t) m) (e / 2) m

/-- `MulMod(xr, y, m)` (R55). -/
def mulMod (xr y m : Nat) : Nat := mulModLoop operandBits 0 xr y m

/-- The loop of PowMod (R58), at most `fuel` iterations. -/
def powModLoop : Nat → Nat → Nat → Nat → Nat → Nat
  | 0, acc, _, _, _ => acc
  | fuel + 1, acc, base, e, m =>
    if e = 0 then acc
    else
      let acc' := if e % 2 = 1 then wideMod (wideMul acc base) m else acc
      powModLoop fuel acc' (wideMod (wideMul base base) m) (e / 2) m

/-- `PowMod(xr, y, m)`, starting at `1 mod m` (R58). -/
def powMod (xr y m : Nat) : Nat := powModLoop operandBits (1 % m) xr y m

/-- The completion of a modular multiply with the row's U bit (R56, R57). -/
def completeModmul (u : Bool) (s : State) : Host.Outcome State Fault Refusal :=
  settle ((modOperands u s.latch).map fun p => setRes0 (enc64 (mulMod p.x p.y p.m)) s) s

/-- The completion of a modular exponentiation with the row's U bit (R59, R60). -/
def completeModexp (u : Bool) (s : State) : Host.Outcome State Fault Refusal :=
  settle ((modOperands u s.latch).map fun p => setRes0 (enc64 (powMod p.x p.y p.m)) s) s

/-- `modmul` (R56). -/
def execModmul (s : State) : Host.Outcome State Fault Refusal := completeModmul false s

/-- `modmul.u` (R57). -/
def execModmulU (s : State) : Host.Outcome State Fault Refusal := completeModmul true s

/-- `modexp` (R59). -/
def execModexp (s : State) : Host.Outcome State Fault Refusal := completeModexp false s

/-- `modexp.u` (R60). -/
def execModexpU (s : State) : Host.Outcome State Fault Refusal := completeModexp true s

end Sys2Proof.Machine
end

