-- ==== Sys2Proof/Machine/Primality.lean ====
section
/-! DEFINITION. The deterministic Miller–Rabin core: commands `isprime` and `isprime.u`
(spec/42_primality.md). The algorithm itself, not a primality oracle (R65). -/

namespace Sys2Proof.Machine

/-- W3 (spec/10_state.md R22). -/
def witnessesW3 : List Nat := [2, 7, 61]

/-- W12 (spec/10_state.md R22). -/
def witnessesW12 : List Nat := [2, 3, 5, 7, 11, 13, 17, 19, 23, 29, 31, 37]

/-- T_MR (spec/10_state.md R22). -/
def thresholdMR : Nat := 4759123141

/-- `WitnessSet(n)`: the comparison is strict (R62). -/
def witnessSet (n : Nat) : List Nat := if n < thresholdMR then witnessesW3 else witnessesW12

/-- The loop of Decompose (R63), at most `fuel` halvings. -/
def decomposeLoop : Nat → Nat → Nat → Nat × Nat
  | 0, d, s => (d, s)
  | fuel + 1, d, s => if d % 2 = 0 then decomposeLoop fuel (d / 2) (s + 1) else (d, s)

/-- `Decompose(n)`: `n − 1 = d·2^s` with `d` odd; `s ≤ 63` (R63; log 15). -/
def decompose (n : Nat) : Nat × Nat := decomposeLoop operandBits (n - 1) 0

/-- The terminal states of a witness round (R64). -/
inductive RoundResult where
  | passed
  | failed
deriving DecidableEq, Repr

/-- The state `squaring(r)` of a witness round with `left` squarings still allowed (R64). -/
def squaring : Nat → Nat → Nat → RoundResult
  | 0, _, _ => .failed
  | left + 1, x, n =>
    let x' := wideMod (wideMul x x) n
    if x' = n - 1 then .passed else squaring left x' n

/-- `WitnessRound(a, n, d, s)`: state `start`, then at most `s − 1` squarings (R64). -/
def witnessRound (a n d s : Nat) : RoundResult :=
  let x := powMod (a % n) d n
  if x = 1 ∨ x = n - 1 then .passed else squaring (s - 1) x n

/-- The witnesses in their order: `n = a` declares prime, a failed round declares composite, and
`n` is declared prime when every round has passed (R65). -/
def tryWitnesses (n d s : Nat) : List Nat → Bool
  | [] => true
  | a :: rest =>
    if n = a then true
    else if witnessRound a n d s = .failed then false
    else tryWitnesses n d s rest

/-- `MillerRabin(n)` (R65). -/
def millerRabin (n : Int) : Bool :=
  if n ≤ 1 then false
  else if n = 2 then true
  else
    let k := n.toNat
    let (d, s) := decompose k
    tryWitnesses k d s (witnessSet k)

/-- A Boolean result: 1 for true, 0 for false (R66, decision D40). -/
def boolWord (b : Bool) : Word := if b then 1 else 0

/-- `isprime` (R66). -/
def execIsprime (s : State) : Host.Outcome State Fault Refusal :=
  settle (.ok (setRes0 (boolWord (millerRabin (sint64 s.latch.a))) s)) s

/-- `isprime.u` (R67). -/
def execIsprimeU (s : State) : Host.Outcome State Fault Refusal :=
  settle (.ok (setRes0 (boolWord (millerRabin (uint64 s.latch.a))) s)) s

end Sys2Proof.Machine
end

