-- ==== Sys2Proof/Machine/Sieve.lean ====
section
/-! DEFINITION. The linear sieve: command `sieve.build` and the six accessors (spec/43_sieve.md). -/

namespace Sys2Proof.Machine

/-- The zero fill of entries 0..N, with φ(1) = μ(1) = 1 and an empty prime list (R69). -/
def sieveInit (N : Nat) : SieveTable where
  spf := List.replicate (N + 1) 0
  expt := List.replicate (N + 1) 0
  phi := (List.replicate (N + 1) 0).set 1 1
  mu := (List.replicate (N + 1) 0).set 1 1
  primes := []

/-- The writes of one entry of each per-integer array (R69). -/
def SieveTable.put (t : SieveTable) (k spf expt phi : Nat) (mu : Int) : SieveTable :=
  { t with
    spf := t.spf.set k spf
    expt := t.expt.set k expt
    phi := t.phi.set k phi
    mu := t.mu.set k mu }

/-- "i is prime" when SPF[i] is still 0: its entries are written and it joins the list (R69). -/
def sieveVisit (i : Nat) (t : SieveTable) : SieveTable :=
  if t.spf.getD i 0 = 0 then
    { t.put i i 1 (i - 1) (-1) with primes := t.primes ++ [i] }
  else t

/-- The inner loop over the primes found so far, with its two breaks (R69). -/
def sieveInner (N i : Nat) : List Nat → SieveTable → SieveTable
  | [], t => t
  | p :: ps, t =>
    if i * p > N then t
    else if i % p = 0 then t.put (i * p) p (t.expt.getD i 0 * p) (t.phi.getD i 0 * p) 0
    else sieveInner N i ps (t.put (i * p) p p (t.phi.getD i 0 * (p - 1)) (-t.mu.getD i 0))

/-- One `i` of the forward pass (R69). -/
def sieveOuter (N : Nat) (t : SieveTable) (i : Nat) : SieveTable :=
  let t' := sieveVisit i t
  sieveInner N i t'.primes t'

/-- `LinearSieve(N)`: the single forward pass `i = 2..N` (R69). -/
def linearSieve (N : Nat) : SieveTable := (List.range' 2 (N - 1)).foldl (sieveOuter N) (sieveInit N)

/-- The writes of a successful build: the whole table, SIEVE_N, SIEVE_COUNT, SVALID and RES0 (R70). -/
def installTable (N : Nat) (t : SieveTable) (s : State) : State :=
  { s with
    table := t
    sieveN := BitVec.ofNat 64 N
    sieveCount := BitVec.ofNat 64 t.primes.length
    status := s.status.tableValid
    res0 := BitVec.ofNat 64 t.primes.length }

/-- `sieve.build` (R70). -/
def execSieveBuild (s : State) : Host.Outcome State Fault Refusal :=
  settle ((sieveBound s.latch).map fun N => installTable N (linearSieve N) s) s

/-- The completion of an accessor: the index check, then RES0 from the index (R72). -/
def completeAccessor (limit : Int) (value : Nat → Word) (s : State) :
    Host.Outcome State Fault Refusal :=
  settle ((sieveIndex s limit).map fun k => setRes0 (value k) s) s

/-- `sieve.spf` (R73). -/
def execSieveSpf (s : State) : Host.Outcome State Fault Refusal :=
  completeAccessor (arrayLimit s) (fun k => enc64 (sieveRead .spf k s.table)) s

/-- `sieve.exp` (R74). -/
def execSieveExp (s : State) : Host.Outcome State Fault Refusal :=
  completeAccessor (arrayLimit s) (fun k => enc64 (sieveRead .expt k s.table)) s

/-- `sieve.phi` (R75). -/
def execSievePhi (s : State) : Host.Outcome State Fault Refusal :=
  completeAccessor (arrayLimit s) (fun k => enc64 (sieveRead .phi k s.table)) s

/-- `sieve.mu` (R76): the entry is sign-extended. -/
def execSieveMu (s : State) : Host.Outcome State Fault Refusal :=
  completeAccessor (arrayLimit s) (fun k => enc64 (sieveRead .mu k s.table)) s

/-- `sieve.prime` (R77). -/
def execSievePrime (s : State) : Host.Outcome State Fault Refusal :=
  completeAccessor (primesLimit s) (fun j => enc64 (sieveRead .primes j s.table)) s

/-- The verdict of the table: `k > 1` and `SPF[k] = k` (R78). -/
def tableVerdict (k : Nat) (t : SieveTable) : Word :=
  if k > 1 ∧ sieveRead .spf k t = k then 1 else 0

/-- `sieve.isprime` (R78). -/
def execSieveIsprime (s : State) : Host.Outcome State Fault Refusal :=
  completeAccessor (arrayLimit s) (fun k => tableVerdict k s.table) s

end Sys2Proof.Machine
end

