-- ==== Sys2Proof/Machine/Dispatch.lean ====
section
/-! DEFINITION. The meaning of each command: what the completion of the command in the latch does
(spec/10_state.md R26), one arm per constructor of Instr. -/

namespace Sys2Proof.Machine

def exec (i : Instr) (s : State) : Host.Outcome State Fault Refusal :=
  match i with
  | .egcd => Sys2Proof.Machine.execEgcd s
  | .modmul => Sys2Proof.Machine.execModmul s
  | .modmulU => Sys2Proof.Machine.execModmulU s
  | .modexp => Sys2Proof.Machine.execModexp s
  | .modexpU => Sys2Proof.Machine.execModexpU s
  | .isprime => Sys2Proof.Machine.execIsprime s
  | .isprimeU => Sys2Proof.Machine.execIsprimeU s
  | .sieveBuild => Sys2Proof.Machine.execSieveBuild s
  | .sieveSpf => Sys2Proof.Machine.execSieveSpf s
  | .sieveExp => Sys2Proof.Machine.execSieveExp s
  | .sievePhi => Sys2Proof.Machine.execSievePhi s
  | .sieveMu => Sys2Proof.Machine.execSieveMu s
  | .sievePrime => Sys2Proof.Machine.execSievePrime s
  | .sieveIsprime => Sys2Proof.Machine.execSieveIsprime s

end Sys2Proof.Machine
end

