-- ==== Sys2Proof/Machine/Cycle.lean ====
section
/-! DEFINITION. One bus cycle of the block: the completion step of the latched command
(spec/10_state.md R26, spec/30_encoding.md R44), its order against a host access in the same cycle,
and reset (spec/60_exceptions.md R86). Machine/Step.lean only calls what stands here. -/

namespace Sys2Proof.Machine

/-- Go on with the next state, or stop as the first part stopped. -/
def andThen (o : Host.Outcome State Fault Refusal) (f : State → Host.Outcome State Fault Refusal) :
    Host.Outcome State Fault Refusal :=
  match o with
  | .next t => f t
  | .fault r => .fault r
  | .refused r => .refused r

/-- `Execute(L, table)` and its completion: decode the latched word, then the command's rule, or the
error completion of an illegal word (R26, R44). -/
def execute (s : State) : Host.Outcome State Fault Refusal :=
  match decode s.latch.w with
  | .ok i => exec i s
  | .error why => .next (completeError (.illegal why) s)

/-- The block's own step when a completion falls now: nothing happens while IDLE (R24, R26). -/
def completionStep (s : State) : Host.Outcome State Fault Refusal :=
  if s.status.busy then execute s else .next s

/-- Whether a completion is ordered before an access presented with it: before a CMD write
(R86 (2)), after an INTR write (R86 (1)), else as the cycle says (log 3). -/
def completionOrderedFirst (c : Cycle) (a : Access) : Bool :=
  match a with
  | .read _ _ => c.completionFirst
  | .write o _ _ =>
    if o = Reg.cmd.offset then true
    else if o = Reg.intr.offset then false
    else c.completionFirst

/-- One bus cycle. Reset wins over everything else in it (R86 (3)). -/
def runCycle (c : Cycle) (s : State) : Host.Outcome State Fault Refusal :=
  if c.reset then .next (resetBlock c.access s)
  else
    match c.access with
    | none => if c.completes then completionStep s else .next s
    | some a =>
      if c.completes then
        if completionOrderedFirst c a then andThen (completionStep s) (hostAccess a)
        else andThen (hostAccess a s) completionStep
      else hostAccess a s

/-- The cycle in which the block alone acts: no reset, no access, a running command completes. -/
def ownCycle : Cycle := ⟨false, none, true, false⟩

/-- The next cycle of the agenda is run; when the world presents nothing more, a running command
completes (R101; log 2) and an idle block holds its state (R92). -/
def runNext (s : State) : Host.Outcome State Fault Refusal :=
  match s.agenda with
  | [] => runCycle ownCycle s
  | c :: rest => runCycle c { s with agenda := rest }

/-- The state in which a command word has just been accepted and its completion falls in the next
cycle (R25; log 13). -/
def latchForNextStep (w : Word) (s : State) : State :=
  { accept w s with agenda := ownCycle :: s.agenda }

end Sys2Proof.Machine
end

