-- ==== Sys2Proof/Machine/Step.lean ====
section
/-! DEFINITION. One step of the machine: one bus cycle (Machine/Cycle.lean); and the state whose very
next step completes a given command word. -/

namespace Sys2Proof.Machine

/-- One step: the next bus cycle. -/
def step (s : State) : Host.Outcome State Fault Refusal := runNext s

/-- The word of `nbits` bits stored where the block takes its next command from: the command latch,
as an accept leaves it, with the completion next (log 13). -/
def State.withFetchWord (s : State) (nbits w : Nat) : State :=
  latchForNextStep (tableWord nbits w) s

end Sys2Proof.Machine
end

