-- ==== Sys2Proof/Safety.lean ====
section
/-! DEFINITION. The terms the statements use: what a completed command leaves behind
(spec/10_state.md R26, spec/60_exceptions.md R82), the strong-probable-prime condition of a witness
(spec/42_primality.md R64), which cycles are harmless, and the invariant of every reachable state. -/

namespace Sys2Proof.Machine

/-- The state after a successful completion whose result writes are already in `s`: BUSY 0, DONE 1,
PEND 1 and nothing else (R26). -/
def State.afterSuccess (s : State) : State :=
  { s with
    status := { s.status with busy := false, done := true }
    intr := { s.intr with pend := true } }

/-- The state after an error completion with the given CAUSE and DETAIL: ERROR, ERR, DONE, BUSY and
PEND, and nothing else; EOPC is L.W[7:0] (R82). -/
def State.afterError (s : State) (cause detail : BitVec 8) : State :=
  { s with
    error := ⟨cause, detail, s.latch.w.extractLsb' 0 8⟩
    status := { s.status with busy := false, done := true, err := true }
    intr := { s.intr with pend := true } }

/-- The (CAUSE, DETAIL) pairs that are ever produced (R80). -/
def producedErrors : List (BitVec 8 × BitVec 8) :=
  [(1, 1), (2, 1), (2, 2), (2, 3), (2, 4), (2, 5), (3, 1), (3, 2), (3, 3)]

/-- Witness `a` accepts `n`: `n = a`, or with `n − 1 = d·2^s` and `d` odd, `a^d ≡ 1` or
`a^(d·2^r) ≡ −1 (mod n)` for some `r < s` (R64, R65). -/
def WitnessAccepts (a n : Nat) : Prop :=
  n = a ∨ ∃ d s : Nat, n - 1 = d * 2 ^ s ∧ d % 2 = 1 ∧
    (a ^ d % n = 1 ∨ ∃ r < s, a ^ (d * 2 ^ r) % n = n - 1)

/-- The cycle the agenda presents next, or the block's own cycle when it presents nothing. -/
def State.nextCycle (s : State) : Cycle := s.agenda.headD ownCycle

/-- An admitted access at an offset of the window: 8 bytes at a multiple of 8 (R27, R28). -/
def admittedOffset (o : Int) : Prop := 0 ≤ o ∧ o ≤ 0xF8 ∧ o % 8 = 0

/-- The access is a write to CMD (R11). -/
def Access.writesCmd (a : Access) : Bool :=
  match a with
  | .read _ _ => false
  | .write o n _ => decide (o = 0x08) && decide (n = 8)

/-- No reset is asserted in the cycle and its access, if any, addresses the window. -/
def Cycle.regular (c : Cycle) : Prop := c.reset = false ∧ ∀ a, c.access = some a → a.inWindow = true

/-- A regular cycle that presents no CMD write. -/
def Cycle.startsNothing (c : Cycle) : Prop :=
  c.regular ∧ ∀ a, c.access = some a → a.writesCmd = false

/-- A regular cycle in which the running command does not complete. -/
def Cycle.waiting (c : Cycle) : Prop := c.regular ∧ c.completes = false

/-- The invariant of every reachable state. -/
structure State.Inv (s : State) : Prop where
  /-- "BUSY and DONE are never both 1" (R12). -/
  busy_not_done : s.status.busy = true → s.status.done = false
  /-- "ERR = 1 implies DONE = 1" (R12). -/
  err_done : s.status.err = true → s.status.done = true
  /-- OVR is set only after an accept (R97, R25). -/
  ovr_started : s.status.ovr = true → s.status.busy = true ∨ s.status.done = true
  /-- ERROR reads 0 unless the last command failed (R13). -/
  error_clear : s.status.err = false → s.error = ⟨0, 0, 0⟩
  /-- ERROR holds a produced pair and the opcode of the latched word (R13, R80, R82). -/
  error_produced : s.status.err = true →
    (s.error.cause, s.error.detail) ∈ producedErrors ∧ s.error.eopc = s.latch.w.extractLsb' 0 8
  /-- "When SVALID = 0, both read 0" (R17). -/
  unbuilt : s.status.svalid = false → s.sieveN = 0 ∧ s.sieveCount = 0
  /-- SIEVE_N is a bound a build accepts (R17, R70). -/
  bound : s.status.svalid = true → 1 ≤ s.sieveN.toNat ∧ s.sieveN.toNat ≤ Config.sieveNMax
  /-- "A table is the complete result of one LinearSieve(N) for N = SIEVE_N" (R68). -/
  complete_table : s.status.svalid = true → s.table = linearSieve s.sieveN.toNat
  /-- SIEVE_COUNT is the number of entries of the prime list (R17). -/
  count : s.status.svalid = true → s.sieveCount.toNat = s.table.primes.length

end Sys2Proof.Machine
end

