-- ==== Sys2Proof/Certificates/Slice0/Obligations.lean ====
section
/-! DEFINITION. The statements for the provers. Each docstring names the rule of spec/ or the log
entry it rests on. A statement about a bus cycle says which cycle stands first in the agenda. -/

open Sys2Proof Sys2Proof.Machine

/-! ### Encoding and decoding -/

/-- The fourteen words of the opcode map, written out, decode to their commands (R43). -/
def Obligations.OpcodeMapWordsDecode : Prop :=
  decode 0x0000000000000001 = .ok .egcd ∧ decode 0x0000000000000002 = .ok .modmul ∧
  decode 0x0000000000000102 = .ok .modmulU ∧ decode 0x0000000000000003 = .ok .modexp ∧
  decode 0x0000000000000103 = .ok .modexpU ∧ decode 0x0000000000000004 = .ok .isprime ∧
  decode 0x0000000000000104 = .ok .isprimeU ∧ decode 0x0000000000000010 = .ok .sieveBuild ∧
  decode 0x0000000000000011 = .ok .sieveSpf ∧ decode 0x0000000000000012 = .ok .sieveExp ∧
  decode 0x0000000000000013 = .ok .sievePhi ∧ decode 0x0000000000000014 = .ok .sieveMu ∧
  decode 0x0000000000000015 = .ok .sievePrime ∧ decode 0x0000000000000016 = .ok .sieveIsprime

/-- Decode and encode agree both ways: every command's word decodes to it, and no other word
decodes to it, so all 64 bits count (R43, R45, R46). -/
def Obligations.DecodeInvertsEncodeExactly : Prop :=
  (∀ i : Instr, i.wellFormed = true → decode (encode i) = .ok i) ∧
  (∀ (w : Word) (i : Instr), decode w = .ok i → w = encode i)

/-- A word decodes exactly when its fields pass the three checks R44 lists. -/
def Obligations.DecodeAcceptsExactlyWellFormedWords : Prop :=
  ∀ w : Word, (∃ i, decode w = .ok i) ↔ (splitWord w).wellFormed = true

/-- The checks of Decode in their order, at the completion of a running command: an unassigned
opcode, then a nonzero reserved field, then U = 1 where it is not defined, each an error completion
with CAUSE 3; a word that passes runs the command it decodes to (R44). -/
def Obligations.IllegalWordsFailInPriorityOrder : Prop :=
  ∀ (s : State) (c : Cycle) (rest : List Cycle), s.status.busy = true → s.agenda = c :: rest →
    c.reset = false → c.access = none → c.completes = true →
    let t : State := { s with agenda := rest }
    let opc := s.latch.w.toNat % 256
    let reserved := s.latch.w.toNat / 512
    let u := s.latch.w.toNat / 256 % 2
    let assigned : List Nat := [0x01, 0x02, 0x03, 0x04, 0x10, 0x11, 0x12, 0x13, 0x14, 0x15, 0x16]
    (opc ∉ assigned → step s = .next (t.afterError 3 1)) ∧
    (opc ∈ assigned → reserved ≠ 0 → step s = .next (t.afterError 3 2)) ∧
    (opc ∈ assigned → reserved = 0 → u = 1 → opc ∉ [0x02, 0x03, 0x04] →
      step s = .next (t.afterError 3 3)) ∧
    (opc ∈ assigned → reserved = 0 → (u = 0 ∨ opc ∈ [0x02, 0x03, 0x04]) →
      ∃ i, decode s.latch.w = .ok i ∧ step s = exec i t)

/-- Little-endian lanes: lane `k` carries bits [8k+7:8k], and the eight lanes make the word again;
any other number of lanes is refused (R29, R28). -/
def Obligations.ByteLanesAreLittleEndian : Prop :=
  (∀ (v : Word) (k : Nat), k < 8 → (toLanes v)[k]? = some (v.extractLsb' (8 * k) 8)) ∧
  (∀ v : Word, fromLanes (toLanes v) = some v) ∧
  (∀ bs : List Byte, bs.length ≠ 8 → fromLanes bs = none)

/-! ### A step runs the decoded command -/

/-- When the latched word of a running command decodes to `i` and the completion falls in this
cycle, the step is exec of `i`; the cycle leaves the agenda. That an empty agenda lets the command
complete is the model's choice (log 2). -/
def Obligations.StepRunsTheLatchedCommand : Prop :=
  ∀ (s : State) (i : Instr), s.status.busy = true → decode s.latch.w = .ok i →
    (s.agenda = [] → step s = exec i s) ∧
    (∀ c rest, s.agenda = c :: rest → c.reset = false → c.access = none → c.completes = true →
      step s = exec i { s with agenda := rest })

/-- `withFetchWord` accepts the word and the very next step completes it: the completion runs in
exactly the accept's state, the latch, BUSY = 1, DONE = ERR = OVR = 0 and ERROR = 0 written and all
else as before (log 13: the model's own convention; the accept is R25's). -/
def Obligations.FetchedWordRunsNext : Prop :=
  ∀ (s : State) (i : Instr), step (s.withFetchWord 64 (encode i).toNat) = exec i { s with
    latch := ⟨encode i, s.opa, s.opb, s.opm⟩
    status := ⟨true, false, false, s.status.svalid, false⟩
    error := ⟨0, 0, 0⟩ }

/-! ### The commands: results, errors and frames -/

/-- `egcd` (R51): its word decodes to it; a zero input gives (0, 0, 0); otherwise RES0 is the gcd and
RES1, RES2 the Bézout pair of the signed inputs with coeffA in [0, |b|/gcd). Nothing else changes
but the completion's flags. -/
def Obligations.EgcdGivesTheCanonicalBezoutPair : Prop :=
  decode 0x0000000000000001 = .ok .egcd ∧
  ∀ s : State,
    let a := s.latch.a.toInt
    let b := s.latch.b.toInt
    ((a = 0 ∨ b = 0) →
      exec .egcd s = .next ({ s with res0 := 0, res1 := 0, res2 := 0 } : State).afterSuccess) ∧
    (a ≠ 0 → b ≠ 0 → ∃ cA cB : Int,
      0 ≤ cA ∧ cA < (b.natAbs / Int.gcd a b : Nat) ∧ a * cA + b * cB = Int.gcd a b ∧
      exec .egcd s = .next ({ s with
        res0 := BitVec.ofNat 64 (Int.gcd a b)
        res1 := BitVec.ofInt 64 cA
        res2 := BitVec.ofInt 64 cB } : State).afterSuccess)

/-- The results of `egcd` are exact in their registers: RES0 read unsigned is the gcd, RES1 and RES2
read signed satisfy the identity over ℤ, with the bounds of R52. -/
def Obligations.EgcdResultsFitTheirRegisters : Prop :=
  ∀ s : State,
    let a := s.latch.a.toInt
    let b := s.latch.b.toInt
    a ≠ 0 → b ≠ 0 → ∃ t, exec .egcd s = .next t ∧
      t.res0.toNat = Int.gcd a b ∧ 1 ≤ t.res0.toNat ∧ t.res0.toNat ≤ 2 ^ 63 ∧
      (t.res0.toNat = 2 ^ 63 → a = -2 ^ 63 ∧ b = -2 ^ 63) ∧
      0 ≤ t.res1.toInt ∧ t.res1.toInt < (b.natAbs / Int.gcd a b : Nat) ∧
      t.res2.toInt.natAbs ≤ a.natAbs / Int.gcd a b ∧
      a * t.res1.toInt + b * t.res2.toInt = t.res0.toNat

/-- `modmul` (R56): `(x·y) mod m` over the signed readings, or the first failing check of R54. -/
def Obligations.ModmulComputesTheResidueOrFails : Prop :=
  decode 0x0000000000000002 = .ok .modmul ∧
  ∀ s : State,
    let x := s.latch.a.toInt
    let y := s.latch.b.toInt
    let m := s.latch.m.toInt
    (0 < m → 0 ≤ y →
      exec .modmul s = .next ({ s with res0 := BitVec.ofInt 64 (x * y % m) } : State).afterSuccess) ∧
    (m = 0 → exec .modmul s = .next (s.afterError 1 1)) ∧
    (m < 0 → exec .modmul s = .next (s.afterError 2 2)) ∧
    (0 < m → y < 0 → exec .modmul s = .next (s.afterError 2 1))

/-- `modmul.u` (R57): `(x·y) mod m` over the unsigned readings, or ZERO_MODULUS. -/
def Obligations.ModmulUComputesTheResidueOrFails : Prop :=
  decode 0x0000000000000102 = .ok .modmulU ∧
  ∀ s : State,
    let x := s.latch.a.toNat
    let y := s.latch.b.toNat
    let m := s.latch.m.toNat
    (m ≠ 0 →
      exec .modmulU s = .next ({ s with res0 := BitVec.ofNat 64 (x * y % m) } : State).afterSuccess) ∧
    (m = 0 → exec .modmulU s = .next (s.afterError 1 1))

/-- `modexp` (R59): `x^y mod m` over the signed readings, with x⁰ = 1, or the first failing check. -/
def Obligations.ModexpComputesThePowerOrFails : Prop :=
  decode 0x0000000000000003 = .ok .modexp ∧
  ∀ s : State,
    let x := s.latch.a.toInt
    let y := s.latch.b.toInt
    let m := s.latch.m.toInt
    (0 < m → 0 ≤ y →
      exec .modexp s =
        .next ({ s with res0 := BitVec.ofInt 64 (x ^ y.toNat % m) } : State).afterSuccess) ∧
    (m = 0 → exec .modexp s = .next (s.afterError 1 1)) ∧
    (m < 0 → exec .modexp s = .next (s.afterError 2 2)) ∧
    (0 < m → y < 0 → exec .modexp s = .next (s.afterError 2 1))

/-- `modexp.u` (R60): `x^y mod m` over the unsigned readings, or ZERO_MODULUS. -/
def Obligations.ModexpUComputesThePowerOrFails : Prop :=
  decode 0x0000000000000103 = .ok .modexpU ∧
  ∀ s : State,
    let x := s.latch.a.toNat
    let y := s.latch.b.toNat
    let m := s.latch.m.toNat
    (m ≠ 0 →
      exec .modexpU s = .next ({ s with res0 := BitVec.ofNat 64 (x ^ y % m) } : State).afterSuccess) ∧
    (m = 0 → exec .modexpU s = .next (s.afterError 1 1))

/-- Decompose (R63): `n − 1 = d·2^s` with `d` odd and `s ≤ 63`. -/
def Obligations.DecomposeSplitsOffTheTwos : Prop :=
  ∀ n : Nat, 3 ≤ n → n < 2 ^ 64 →
    n - 1 = (decompose n).1 * 2 ^ (decompose n).2 ∧ (decompose n).1 % 2 = 1 ∧
      (decompose n).2 ≤ 63

/-- `isprime` and `isprime.u` (R62–R67): RES0 is 1 exactly when `n` is 2, or above 2 and accepted by
every witness of the set its size selects, the threshold being strict; else RES0 is 0. No input
fails. -/
def Obligations.IsprimeIsTheFixedWitnessTest : Prop :=
  decode 0x0000000000000004 = .ok .isprime ∧ decode 0x0000000000000104 = .ok .isprimeU ∧
  ∀ s : State,
    let accepted (n : Int) : Prop :=
      n = 2 ∨ (2 < n ∧ (n < 4759123141 → ∀ a ∈ [2, 7, 61], WitnessAccepts a n.toNat) ∧
        (4759123141 ≤ n →
          ∀ a ∈ [2, 3, 5, 7, 11, 13, 17, 19, 23, 29, 31, 37], WitnessAccepts a n.toNat))
    (accepted s.latch.a.toInt →
      exec .isprime s = .next ({ s with res0 := 1 } : State).afterSuccess) ∧
    (¬ accepted s.latch.a.toInt →
      exec .isprime s = .next ({ s with res0 := 0 } : State).afterSuccess) ∧
    (accepted s.latch.a.toNat →
      exec .isprimeU s = .next ({ s with res0 := 1 } : State).afterSuccess) ∧
    (¬ accepted s.latch.a.toNat →
      exec .isprimeU s = .next ({ s with res0 := 0 } : State).afterSuccess)

/-- A prime is never rejected: every prime of 64 bits gets RES0 = 1 from `isprime.u`, and every
prime below 2⁶³ from `isprime` (the half of R65's "Primality" that Fermat's theorem gives). -/
def Obligations.PrimesAreNeverRejected : Prop :=
  ∀ s : State, Nat.Prime s.latch.a.toNat →
    exec .isprimeU s = .next ({ s with res0 := 1 } : State).afterSuccess ∧
    (s.latch.a.toNat < 2 ^ 63 →
      exec .isprime s = .next ({ s with res0 := 1 } : State).afterSuccess)

/-- Numbers up to 1 and even numbers above 2 are not prime (corner cases of R66, R67). -/
def Obligations.SmallAndEvenNumbersAreRejected : Prop :=
  ∀ s : State,
    (s.latch.a.toInt ≤ 1 ∨ (2 < s.latch.a.toInt ∧ s.latch.a.toInt % 2 = 0) →
      exec .isprime s = .next ({ s with res0 := 0 } : State).afterSuccess) ∧
    (s.latch.a.toNat ≤ 1 ∨ (2 < s.latch.a.toNat ∧ s.latch.a.toNat % 2 = 0) →
      exec .isprimeU s = .next ({ s with res0 := 0 } : State).afterSuccess)

/-- `sieve.build` (R70): with `1 ≤ N ≤ SIEVE_NMAX` the whole table of LinearSieve(N), SIEVE_N,
SIEVE_COUNT = RES0 = |P| and SVALID are written together; outside the bound nothing but the error
record and the flags changes. -/
def Obligations.SieveBuildInstallsTheWholeTable : Prop :=
  ∀ s : State,
    let N := s.latch.a.toNat
    (1 ≤ N → N ≤ Config.sieveNMax →
      exec .sieveBuild s = .next ({ s with
        table := linearSieve N
        sieveN := s.latch.a
        sieveCount := BitVec.ofNat 64 (linearSieve N).primes.length
        res0 := BitVec.ofNat 64 (linearSieve N).primes.length
        status := { s.status with svalid := true } } : State).afterSuccess) ∧
    (N = 0 ∨ Config.sieveNMax < N → exec .sieveBuild s = .next (s.afterError 2 3))

/-- A successful build counts the primes: RES0 and SIEVE_COUNT are π(N) (R41, R70, R71). -/
def Obligations.SieveBuildCountsThePrimes : Prop :=
  ∀ s : State, 1 ≤ s.latch.a.toNat → s.latch.a.toNat ≤ Config.sieveNMax →
    ∃ t, exec .sieveBuild s = .next t ∧
      t.res0.toNat = Nat.primeCounting s.latch.a.toNat ∧
      t.sieveCount.toNat = Nat.primeCounting s.latch.a.toNat

/-- What LinearSieve finds (R71): every array reaches exactly index N, SPF holds the smallest prime
factor from index 2 and 0 below it, and PRIMES lists the primes up to N in increasing order. -/
def Obligations.LinearSieveFindsThePrimes : Prop :=
  ∀ N : Nat, 1 ≤ N →
    let t := linearSieve N
    t.spf.length = N + 1 ∧ t.expt.length = N + 1 ∧ t.phi.length = N + 1 ∧ t.mu.length = N + 1 ∧
    t.primes = (List.range (N + 1)).filter (fun k => decide (Nat.Prime k)) ∧
    (∀ k ≤ N, t.spf[k]? = some (if k < 2 then 0 else Nat.minFac k))

/-- The other values LinearSieve tabulates (R71): the totient, the Möbius value, and the prime-power
term, which is p^(v−1) for a prime power p^v and p^v otherwise; 0 at indices 0 and 1 of EXPT. -/
def Obligations.LinearSieveTabulatesArithmeticFunctions : Prop :=
  ∀ N k : Nat, 1 ≤ N → k ≤ N →
    let t := linearSieve N
    let p := Nat.minFac k
    let v := k.factorization p
    t.phi[k]? = some (Nat.totient k) ∧ t.mu[k]? = some (ArithmeticFunction.moebius k) ∧
    t.expt[k]? = some (if k < 2 then 0 else if k = p ^ v then p ^ (v - 1) else p ^ v)

/-- The six accessors read one entry of the built table and write RES0 alone: zero-extended, MU
sign-extended, `sieve.isprime` a verdict (R73–R78). -/
def Obligations.AccessorsReadOneEntry : Prop :=
  ∀ s : State, s.status.svalid = true →
    let k := s.latch.a.toNat
    (k ≤ s.sieveN.toNat →
      (∀ v, s.table.spf[k]? = some v → exec .sieveSpf s =
        .next ({ s with res0 := BitVec.ofNat 64 v } : State).afterSuccess) ∧
      (∀ v, s.table.expt[k]? = some v → exec .sieveExp s =
        .next ({ s with res0 := BitVec.ofNat 64 v } : State).afterSuccess) ∧
      (∀ v, s.table.phi[k]? = some v → exec .sievePhi s =
        .next ({ s with res0 := BitVec.ofNat 64 v } : State).afterSuccess) ∧
      (∀ v, s.table.mu[k]? = some v → exec .sieveMu s =
        .next ({ s with res0 := BitVec.ofInt 64 v } : State).afterSuccess) ∧
      (∀ v, s.table.spf[k]? = some v → exec .sieveIsprime s =
        .next ({ s with res0 := if 1 < k ∧ v = k then 1 else 0 } : State).afterSuccess)) ∧
    (k < s.sieveCount.toNat →
      ∀ v, s.table.primes[k]? = some v → exec .sievePrime s =
        .next ({ s with res0 := BitVec.ofNat 64 v } : State).afterSuccess)

/-- The check every accessor makes first: NOT_BUILT while SVALID = 0, then INDEX_RANGE beyond
SIEVE_N, or beyond SIEVE_COUNT − 1 for the prime list, so that with SIEVE_COUNT = 0 every index
fails; an index that passes the check is returned, so the command completes with no error (R72). -/
def Obligations.AccessorsCheckBeforeReading : Prop :=
  ∀ s : State,
    (s.status.svalid = false →
      ∀ i ∈ [Instr.sieveSpf, .sieveExp, .sievePhi, .sieveMu, .sievePrime, .sieveIsprime],
        exec i s = .next (s.afterError 2 4)) ∧
    (s.status.svalid = true → s.sieveN.toNat < s.latch.a.toNat →
      ∀ i ∈ [Instr.sieveSpf, .sieveExp, .sievePhi, .sieveMu, .sieveIsprime],
        exec i s = .next (s.afterError 2 5)) ∧
    (s.status.svalid = true → s.sieveCount.toNat ≤ s.latch.a.toNat →
      exec .sievePrime s = .next (s.afterError 2 5)) ∧
    (s.status.svalid = true → s.latch.a.toNat ≤ s.sieveN.toNat →
      ∀ i ∈ [Instr.sieveSpf, .sieveExp, .sievePhi, .sieveMu, .sieveIsprime],
        ∃ v, exec i s = .next ({ s with res0 := v } : State).afterSuccess) ∧
    (s.status.svalid = true → s.latch.a.toNat < s.sieveCount.toNat →
      ∃ v, exec .sievePrime s = .next ({ s with res0 := v } : State).afterSuccess)

/-- In every state that meets the invariant, the accessors of a built table give the arithmetic
functions themselves (R71 with R73–R78). -/
def Obligations.AccessorsGiveTheArithmeticFunctions : Prop :=
  ∀ s : State, s.Inv → s.status.svalid = true →
    let k := s.latch.a.toNat
    (k ≤ s.sieveN.toNat →
      exec .sieveSpf s = .next ({ s with
        res0 := BitVec.ofNat 64 (if k < 2 then 0 else Nat.minFac k) } : State).afterSuccess ∧
      exec .sieveExp s = .next ({ s with
        res0 := BitVec.ofNat 64 (if k < 2 then 0 else
          if k = Nat.minFac k ^ k.factorization (Nat.minFac k)
          then Nat.minFac k ^ (k.factorization (Nat.minFac k) - 1)
          else Nat.minFac k ^ k.factorization (Nat.minFac k)) } : State).afterSuccess ∧
      exec .sievePhi s = .next ({ s with
        res0 := BitVec.ofNat 64 (Nat.totient k) } : State).afterSuccess ∧
      exec .sieveMu s = .next ({ s with
        res0 := BitVec.ofInt 64 (ArithmeticFunction.moebius k) } : State).afterSuccess ∧
      exec .sieveIsprime s = .next ({ s with
        res0 := if Nat.Prime k then 1 else 0 } : State).afterSuccess) ∧
    (k < Nat.primeCounting s.sieveN.toNat →
      exec .sievePrime s = .next ({ s with
        res0 := BitVec.ofNat 64 (Nat.nth Nat.Prime k) } : State).afterSuccess)

/-- Every command completes in every state: no command stops the machine (R84: "An error never makes
the block unusable"). -/
def Obligations.EveryCommandAnswersANextState : Prop :=
  ∀ (i : Instr) (s : State), ∃ t, exec i s = .next t ∧
    t.status.busy = false ∧ t.status.done = true ∧ t.intr.pend = true

/-- The error completion (R82): a command, or the decoding of an illegal word, that turns ERR on
leaves exactly the accept's state plus the ERROR record, with a pair of R80, and the completion
flags. -/
def Obligations.FailedCommandsChangeOnlyTheRecord : Prop :=
  (∀ (i : Instr) (s t : State), exec i s = .next t → s.status.err = false → t.status.err = true →
    ∃ p ∈ producedErrors, t = s.afterError p.1 p.2) ∧
  (∀ s t : State, execute s = .next t → s.status.err = false → t.status.err = true →
    ∃ p ∈ producedErrors, t = s.afterError p.1 p.2)

/-- Which command can fail with which error (R81): the arithmetic commands never raise a sieve error
and the reverse, and egcd and the primality commands never fail. -/
def Obligations.EachCommandHasItsOwnErrors : Prop :=
  ∀ (i : Instr) (s t : State), exec i s = .next t → s.status.err = false → t.status.err = true →
    (i ∈ [Instr.modmul, .modexp] ∧
      (t.error.cause, t.error.detail) ∈ [((1 : BitVec 8), (1 : BitVec 8)), (2, 2), (2, 1)]) ∨
    (i ∈ [Instr.modmulU, .modexpU] ∧ (t.error.cause, t.error.detail) = (1, 1)) ∨
    (i = .sieveBuild ∧ (t.error.cause, t.error.detail) = (2, 3)) ∨
    (i ∈ [Instr.sieveSpf, .sieveExp, .sievePhi, .sieveMu, .sievePrime, .sieveIsprime] ∧
      (t.error.cause, t.error.detail) ∈ [((2 : BitVec 8), (4 : BitVec 8)), (2, 5)])

/-- The frame of every command: operands, latch, IE, OVR and the outside world's fields never
change; RES1 and RES2 change only by egcd; the sieve state changes only by sieve.build (R16, R26,
R32, R104). -/
def Obligations.CommandsKeepTheirFrame : Prop :=
  ∀ (i : Instr) (s t : State), exec i s = .next t →
    t.opa = s.opa ∧ t.opb = s.opb ∧ t.opm = s.opm ∧ t.latch = s.latch ∧ t.intr.ie = s.intr.ie ∧
    t.status.ovr = s.status.ovr ∧ t.response = s.response ∧ t.agenda = s.agenda ∧
    (i ≠ .egcd → t.res1 = s.res1 ∧ t.res2 = s.res2) ∧
    (i ≠ .sieveBuild → t.table = s.table ∧ t.sieveN = s.sieveN ∧ t.sieveCount = s.sieveCount ∧
      t.status.svalid = s.status.svalid)

/-! ### The bus window -/

/-- Accept (R25): a CMD write while idle latches the word and the operand registers, sets BUSY,
clears DONE, ERR, OVR and ERROR, and changes nothing else. -/
def Obligations.IdleCmdWriteIsAccepted : Prop :=
  ∀ (s : State) (c : Cycle) (rest : List Cycle) (w : Word),
    s.agenda = c :: rest → c.reset = false → c.access = some (.write 0x08 8 w) →
    s.status.busy = false →
    step s = .next { s with
      latch := ⟨w, s.opa, s.opb, s.opm⟩
      status := ⟨true, false, false, s.status.svalid, false⟩
      error := ⟨0, 0, 0⟩
      response := .written
      agenda := rest }

/-- A CMD write while BUSY is dropped and sets OVR; nothing else changes. OVR, once 1, is cleared only
by a later accept (a CMD write while idle or at the completion) or by reset (R97). -/
def Obligations.BusyCmdWriteIsDropped : Prop :=
  (∀ (s : State) (c : Cycle) (rest : List Cycle) (w : Word),
    s.agenda = c :: rest → c.reset = false → c.access = some (.write 0x08 8 w) →
    c.completes = false → s.status.busy = true →
    step s = .next { s with
      status := { s.status with ovr := true }
      response := .written
      agenda := rest }) ∧
  (∀ s t : State, step s = .next t → s.status.ovr = true → t.status.ovr = false →
    s.nextCycle.reset = true ∨
      ((s.status.busy = false ∨ s.nextCycle.completes = true) ∧
        ∃ w : Word, s.nextCycle.access = some (.write 0x08 8 w)))

/-- Writes of the operand registers and of INTR take effect at once, busy or not: the whole word, and
for INTR the W1C of PEND and the new IE (R14, R15, R98). -/
def Obligations.OperandAndInterruptWritesTakeEffectAtOnce : Prop :=
  ∀ (s : State) (c : Cycle) (rest : List Cycle) (v : Word),
    s.agenda = c :: rest → c.reset = false → (c.completes = false ∨ s.status.busy = false) →
    (c.access = some (.write 0x28 8 v) →
      step s = .next { s with opa := v, response := .written, agenda := rest }) ∧
    (c.access = some (.write 0x30 8 v) →
      step s = .next { s with opb := v, response := .written, agenda := rest }) ∧
    (c.access = some (.write 0x38 8 v) →
      step s = .next { s with opm := v, response := .written, agenda := rest }) ∧
    (c.access = some (.write 0x20 8 v) →
      step s = .next { s with
        intr := ⟨s.intr.pend && !v.getLsbD 0, v.getLsbD 1⟩, response := .written, agenda := rest })

/-- Writes to read-only registers and to reserved offsets are ignored, with no error (R30). -/
def Obligations.ReadOnlyAndReservedWritesAreIgnored : Prop :=
  ∀ (s : State) (c : Cycle) (rest : List Cycle) (o : Int) (v : Word),
    s.agenda = c :: rest → c.reset = false → (c.completes = false ∨ s.status.busy = false) →
    admittedOffset o → o ∉ [0x08, 0x20, 0x28, 0x30, 0x38] → c.access = some (.write o 8 v) →
    step s = .next { s with response := .written, agenda := rest }

/-- A read returns the register's value and changes nothing: the constants ID and PARAM, CMD and the
reserved offsets as 0, STATUS, ERROR and INTR by their fields, and the plain registers (R9–R18,
R30). -/
def Obligations.ReadsReturnTheRegisterAndChangeNothing : Prop :=
  ∀ (s : State) (c : Cycle) (rest : List Cycle) (o : Int),
    s.agenda = c :: rest → c.reset = false → (c.completes = false ∨ s.status.busy = false) →
    admittedOffset o → c.access = some (.read o 8) →
    ∃ v : Word, step s = .next { s with response := .data v, agenda := rest } ∧
      (o = 0x00 → v = 0x4E584D3634070001) ∧ (o = 0x08 → v = 0) ∧
      (o = 0x10 → v.toNat = s.status.busy.toNat + 2 * s.status.done.toNat +
        4 * s.status.err.toNat + 8 * s.status.svalid.toNat + 16 * s.status.ovr.toNat) ∧
      (o = 0x18 → v.toNat =
        s.error.cause.toNat + 256 * s.error.detail.toNat + 65536 * s.error.eopc.toNat) ∧
      (o = 0x20 → v.toNat = s.intr.pend.toNat + 2 * s.intr.ie.toNat) ∧
      (o = 0x28 → v = s.opa) ∧ (o = 0x30 → v = s.opb) ∧ (o = 0x38 → v = s.opm) ∧
      (o = 0x40 → v = s.res0) ∧ (o = 0x48 → v = s.res1) ∧ (o = 0x50 → v = s.res2) ∧
      (o = 0x58 → v = s.sieveN) ∧ (o = 0x60 → v = s.sieveCount) ∧
      (o = 0x68 → v.toNat = Config.sieveNMax ∧ 30 ≤ v.toNat ∧ v.toNat < 2 ^ 32) ∧
      (0x70 ≤ o → v = 0)

/-- A narrow, wide or misaligned access inside the window is answered with a bus error and changes no
register of the block (R28; that the model goes on with the response on record is log 4). -/
def Obligations.RefusedAccessChangesNoRegister : Prop :=
  ∀ (s : State) (c : Cycle) (rest : List Cycle) (a : Access),
    s.agenda = c :: rest → c.reset = false → (c.completes = false ∨ s.status.busy = false) →
    c.access = some a → 0 ≤ a.offset → a.offset ≤ 0xFF → (a.size ≠ 8 ∨ a.offset % 8 ≠ 0) →
    step s = .next { s with response := .busError, agenda := rest }

/-- The only stop of the machine: a step faults exactly when its cycle, without reset, presents an
access outside the window, and it never refuses (log 5, the model's choice). -/
def Obligations.StepStopsOnlyOutsideTheWindow : Prop :=
  ∀ s : State,
    ((∃ r, step s = .fault r) ↔
      s.nextCycle.reset = false ∧ ∃ a, s.nextCycle.access = some a ∧
        (a.offset < 0 ∨ 0xFF < a.offset)) ∧
    ∀ r, step s ≠ .refused r

/-! ### Events, interrupt and reset -/

/-- Simultaneous events (R86). With `u` the state after the same cycle without its access: an INTR
write together with a completion leaves exactly `u` but for the new IE, PEND staying 1; a CMD write
leaves exactly `u` with the new word then accepted; and reset wins over everything. -/
def Obligations.SimultaneousEventsAreOrdered : Prop :=
  ∀ (s : State) (c : Cycle) (rest : List Cycle), s.agenda = c :: rest →
    (c.reset = false → c.completes = true → s.status.busy = true →
      ∃ u, step { s with agenda := { c with access := none } :: rest } = .next u ∧
        u.status.busy = false ∧ u.status.done = true ∧ u.intr.pend = true ∧
        (∀ v : Word, c.access = some (.write 0x20 8 v) →
          step s = .next { u with intr := ⟨true, v.getLsbD 1⟩, response := .written }) ∧
        (∀ w : Word, c.access = some (.write 0x08 8 w) →
          step s = .next { u with
            latch := ⟨w, s.opa, s.opb, s.opm⟩
            status := ⟨true, false, false, u.status.svalid, false⟩
            error := ⟨0, 0, 0⟩
            response := .written })) ∧
    (c.reset = true → ∃ t, step s = .next t ∧ t.opa = 0 ∧ t.opb = 0 ∧ t.opm = 0 ∧ t.res0 = 0 ∧
      t.res1 = 0 ∧ t.res2 = 0 ∧ t.status = ⟨false, false, false, false, false⟩ ∧
      t.intr = ⟨false, false⟩ ∧ t.error = ⟨0, 0, 0⟩ ∧ t.sieveN = 0 ∧ t.sieveCount = 0)

/-- Reset (R93, R94): in any state, busy or not, a cycle with reset asserted leaves every register at
its value after reset, with no completion of a command in progress. -/
def Obligations.ResetCycleGivesTheResetValues : Prop :=
  ∀ (s : State) (c : Cycle) (rest : List Cycle), s.agenda = c :: rest → c.reset = true →
    ∃ t, step s = .next t ∧ t.opa = 0 ∧ t.opb = 0 ∧ t.opm = 0 ∧ t.res0 = 0 ∧ t.res1 = 0 ∧
      t.res2 = 0 ∧ t.status = ⟨false, false, false, false, false⟩ ∧ t.error = ⟨0, 0, 0⟩ ∧
      t.intr = ⟨false, false⟩ ∧ t.irq = false ∧ t.sieveN = 0 ∧ t.sieveCount = 0 ∧
      t.agenda = rest

/-- The machine right after reset (R93): the registers the spec gives a value. -/
def Obligations.ResetStateHasTheSpecifiedValues : Prop :=
  State.reset.opa = 0 ∧ State.reset.opb = 0 ∧ State.reset.opm = 0 ∧ State.reset.res0 = 0 ∧
  State.reset.res1 = 0 ∧ State.reset.res2 = 0 ∧ State.reset.status.word = 0 ∧
  State.reset.error.word = 0 ∧ State.reset.intr.word = 0 ∧ State.reset.irq = false ∧
  State.reset.sieveN = 0 ∧ State.reset.sieveCount = 0 ∧
  readReg .id State.reset = 0x4E584D3634070001 ∧ readReg .cmd State.reset = 0

/-- `irq` = PEND ∧ IE; every completion sets PEND; and PEND is cleared only by an INTR write with
bit 0 = 1 or by reset (R85). -/
def Obligations.PendIsClearedOnlyByTheHostOrReset : Prop :=
  (∀ s : State, s.irq = true ↔ s.intr.pend = true ∧ s.intr.ie = true) ∧
  (∀ s t : State, step s = .next t → s.status.busy = true → s.nextCycle.completes = true →
    s.nextCycle.reset = false → t.intr.pend = true) ∧
  (∀ s t : State, step s = .next t → s.intr.pend = true → t.intr.pend = false →
    s.nextCycle.reset = true ∨
      ∃ v : Word, s.nextCycle.access = some (.write 0x20 8 v) ∧ v.getLsbD 0 = true) ∧
  (∀ s t : State, step s = .next t → s.intr.pend = false → t.intr.pend = true →
    s.status.busy = true ∧ s.nextCycle.completes = true ∧ s.nextCycle.reset = false)

/-- Only a completion or reset writes a result register, and only a successful `sieve.build` or reset
changes the sieve state (R16, R19, R32). -/
def Obligations.ResultsChangeOnlyAtCompletion : Prop :=
  ∀ s t : State, step s = .next t →
    ((t.res0, t.res1, t.res2) ≠ (s.res0, s.res1, s.res2) →
      s.nextCycle.reset = true ∨ (s.status.busy = true ∧ s.nextCycle.completes = true)) ∧
    ((t.table, t.sieveN, t.sieveCount, t.status.svalid) ≠
        (s.table, s.sieveN, s.sieveCount, s.status.svalid) →
      s.nextCycle.reset = true ∨
        (s.status.busy = true ∧ s.nextCycle.completes = true ∧
          decode s.latch.w = .ok .sieveBuild ∧ t.status.svalid = true))

/-- Only the host's own writes, or reset, change the operand registers and IE (R15, R19). -/
def Obligations.OperandsChangeOnlyByHostWrites : Prop :=
  ∀ s t : State, step s = .next t → s.nextCycle.reset = false →
    (t.opa ≠ s.opa → s.nextCycle.access = some (.write 0x28 8 t.opa)) ∧
    (t.opb ≠ s.opb → s.nextCycle.access = some (.write 0x30 8 t.opb)) ∧
    (t.opm ≠ s.opm → s.nextCycle.access = some (.write 0x38 8 t.opm)) ∧
    (t.intr.ie ≠ s.intr.ie → ∃ v : Word, s.nextCycle.access = some (.write 0x20 8 v))

/-- SVALID, once 1, stays 1 until reset (R12, R68). -/
def Obligations.TableStaysValidUntilReset : Prop :=
  ∀ s t : State, step s = .next t → s.status.svalid = true → s.nextCycle.reset = false →
    t.status.svalid = true

/-- While a command runs, a cycle without completion and without reset leaves the latch, the
results, ERROR and the sieve state as they are, and the command running (R24, R37, R99, R100). -/
def Obligations.NothingIsVisibleBeforeCompletion : Prop :=
  ∀ s t : State, s.status.busy = true → s.nextCycle.waiting → step s = .next t →
    t.status.busy = true ∧ t.latch = s.latch ∧ t.res0 = s.res0 ∧ t.res1 = s.res1 ∧
    t.res2 = s.res2 ∧ t.error = s.error ∧ t.table = s.table ∧ t.sieveN = s.sieveN ∧
    t.sieveCount = s.sieveCount ∧ t.status.svalid = s.status.svalid ∧
    t.status.done = s.status.done ∧ t.status.err = s.status.err

/-! ### Whole-machine results -/

/-- The invariant holds at reset. -/
def Obligations.InvHoldsAtReset : Prop := State.reset.Inv

/-- Every step keeps the invariant: the flags' invariants of R12, ERROR clear or a produced record,
and the table the complete result of one build to SIEVE_N (R12, R13, R17, R68). -/
def Obligations.EveryStepKeepsTheInvariant : Prop :=
  ∀ s t : State, s.Inv → step s = .next t → t.Inv

/-- The outcome of a command is a function of the latch and the sieve state alone (R26): in two
states that agree on these, it fails in both with the same error, or succeeds in both with the same
writes; what it does not write keeps each state's own value. An illegal word fails in both alike. -/
def Obligations.OutcomeDependsOnlyOnLatchAndTable : Prop :=
  ∀ s₁ s₂ : State, s₁.latch = s₂.latch → s₁.table = s₂.table → s₁.sieveN = s₂.sieveN →
    s₁.sieveCount = s₂.sieveCount → s₁.status.svalid = s₂.status.svalid →
    (∀ i : Instr,
      (∃ cause detail, exec i s₁ = .next (s₁.afterError cause detail) ∧
        exec i s₂ = .next (s₂.afterError cause detail)) ∨
      (∃ (r0 r1 r2 n count : Word) (tbl : SieveTable) (valid : Bool),
        let success (s : State) : State := { s with
          res0 := r0
          res1 := if i = .egcd then r1 else s.res1
          res2 := if i = .egcd then r2 else s.res2
          table := tbl
          sieveN := n
          sieveCount := count
          status := { s.status with svalid := valid } }
        exec i s₁ = .next (success s₁).afterSuccess ∧
          exec i s₂ = .next (success s₂).afterSuccess)) ∧
    (∀ why, decode s₁.latch.w = .error why → ∃ detail,
      execute s₁ = .next (s₁.afterError 3 detail) ∧ execute s₂ = .next (s₂.afterError 3 detail))

/-- Latency does not change the outcome: after any number of waiting cycles, with any accesses, the
running command, its word legal or not, completes with the results, error and sieve state that a
completion at once would have given (R26, R98, R101). Both completions are a cycle of their own. -/
def Obligations.LatencyDoesNotChangeTheOutcome : Prop :=
  ∀ (s u : State) (cs rest : List Cycle),
    s.status.busy = true → s.agenda = cs ++ rest → (∀ c ∈ cs, c.waiting) →
    Sys2Proof.core.run cs.length s = .next u →
    u.agenda = rest ∧ ∃ ts tu, step { s with agenda := [ownCycle] } = .next ts ∧
      step { u with agenda := [ownCycle] } = .next tu ∧
      tu.res0 = ts.res0 ∧ tu.res1 = ts.res1 ∧ tu.res2 = ts.res2 ∧ tu.error = ts.error ∧
      tu.status.err = ts.status.err ∧ tu.table = ts.table ∧ tu.sieveN = ts.sieveN ∧
      tu.sieveCount = ts.sieveCount ∧ tu.status.svalid = ts.status.svalid ∧
      tu.status.done = true ∧ tu.status.busy = false

/-- Every accepted command completes (R101's guarantee): with no reset and no access outside the
window in the agenda, whatever is accepted or dropped on the way, no command is running once the
agenda is used up, and the last one accepted is done. With no CMD write in the agenda that is the
command running now, with the outcome a completion at once would have given. That an empty agenda
lets the command complete is log 2, the model's choice. -/
def Obligations.EveryAcceptedCommandCompletes : Prop :=
  ∀ s : State, s.status.busy = true → (∀ c ∈ s.agenda, c.regular) →
    ∃ t, Sys2Proof.core.run (s.agenda.length + 1) s = .next t ∧
      t.status.busy = false ∧ t.status.done = true ∧
      ((∀ c ∈ s.agenda, c.startsNothing) →
        ∃ u, step { s with agenda := [ownCycle] } = .next u ∧ t.latch = s.latch ∧
          t.res0 = u.res0 ∧ t.res1 = u.res1 ∧ t.res2 = u.res2 ∧ t.error = u.error ∧
          t.status.err = u.status.err ∧ t.table = u.table ∧ t.sieveN = u.sieveN ∧
          t.sieveCount = u.sieveCount ∧ t.status.svalid = u.status.svalid)
end

