-- ==== Sys2Proof/Laws/Euclid.lean ====
section
/-! SUPPORT. EgcdRaw returns the gcd and a Bézout pair (spec/40_extended_euclid.md R49). -/

namespace Sys2Proof.Machine

/-- The loop keeps `A·x + B·y = a1` and `A·x1 + B·y1 = b1`, and ends at the gcd. -/
theorem egcdLoop_spec (A B : Int) :
    ∀ (fuel : Nat) (x x1 y y1 : Int) (a1 b1 : Nat), b1 < fuel →
      A * x + B * y = a1 → A * x1 + B * y1 = b1 →
      (egcdLoop fuel x x1 y y1 a1 b1).1 = Nat.gcd a1 b1 ∧
      A * (egcdLoop fuel x x1 y y1 a1 b1).2.1 + B * (egcdLoop fuel x x1 y y1 a1 b1).2.2 =
        Nat.gcd a1 b1 := by
  intro fuel
  induction fuel with
  | zero => intro x x1 y y1 a1 b1 h; omega
  | succ fuel ih =>
    intro x x1 y y1 a1 b1 hf ha hb
    unfold egcdLoop
    by_cases h0 : b1 = 0
    · subst h0
      simpa using ha
    · simp only [h0, if_false]
      have hmod : a1 - a1 / b1 * b1 = a1 % b1 := by
        have := Nat.div_add_mod a1 b1
        rw [Nat.mul_comm] at this
        omega
      have hlt : a1 % b1 < b1 := Nat.mod_lt _ (by omega)
      have hz : ((a1 % b1 : Nat) : Int) = a1 - (a1 / b1 : Nat) * b1 := by
        rw [Int.natCast_mod, Int.emod_def, Int.natCast_div]
        ring
      rw [hmod]
      have := ih x1 (x - (a1 / b1 : Nat) * x1) y1 (y - (a1 / b1 : Nat) * y1) b1 (a1 % b1)
        (by omega) hb (by rw [hz, ← ha, ← hb]; ring)
      rw [Nat.gcd_comm b1, ← Nat.gcd_rec, Nat.gcd_comm b1] at this
      exact this

/-- `EgcdRaw(A, B)` is `(g, x, y)` with `g = gcd(A, B)` and `A·x + B·y = g` (R49). -/
theorem egcdRaw_spec (A B : Nat) :
    (egcdRaw A B).1 = Nat.gcd A B ∧
      (A : Int) * (egcdRaw A B).2.1 + (B : Int) * (egcdRaw A B).2.2 = Nat.gcd A B :=
  egcdLoop_spec A B (B + 1) 1 0 0 1 A B (Nat.lt_succ_self B) (by ring) (by ring)

end Sys2Proof.Machine
end

