-- ==== Sys2Proof/Laws/Operands.lean ====
section
/-! SUPPORT. The bounds of SIEVE_NMAX (spec/00_scope.md R4), and what each operand check can answer
(spec/41_modular.md R54, spec/43_sieve.md R70, R72). -/

namespace Sys2Proof.Machine

theorem thirty_le_sieveNMax : 30 ≤ Config.sieveNMax := Nat.le_max_left _ _

theorem sieveNMax_lt : Config.sieveNMax < 2 ^ 32 := by
  have h := Config.sieveCapacity.isLt
  unfold Config.sieveNMax
  omega

/-- The base of the window is 256-byte aligned (R4, R27). -/
theorem nxmBase_aligned : Config.nxmBase % 256 = 0 := by
  unfold Config.nxmBase
  omega

/-- The bound check in its deciding form is the check of R70. -/
theorem sieveBoundFails_iff (n : Nat) :
    sieveBoundFails n = true ↔ n < 1 ∨ Config.sieveNMax < n := by
  have h1 := thirty_le_sieveNMax
  have h2 := sieveNMax_lt
  simp only [sieveBoundFails, Bool.or_eq_true, Bool.and_eq_true, decide_eq_true_eq]
  omega

/-- What `sieveBound` answers: the bound itself, within 1 … SIEVE_NMAX. -/
theorem sieveBound_ok {l : Latch} {N : Nat} (h : sieveBound l = .ok N) :
    N = l.a.toNat ∧ 1 ≤ N ∧ N ≤ Config.sieveNMax := by
  unfold sieveBound at h
  split at h
  · cases h
  · rename_i hb
    cases h
    rw [sieveBoundFails_iff] at hb
    omega

/-- Its only error is SIEVE_BOUND. -/
theorem sieveBound_error {l : Latch} {e : CommandError} (h : sieveBound l = .error e) :
    e = .sieveBound := by
  unfold sieveBound at h
  split at h <;> cases h
  rfl

/-- What `modOperands` answers when it answers operands (R54). -/
theorem modOperands_ok {u : Bool} {l : Latch} {p : ModArgs} (h : modOperands u l = .ok p) :
    0 < readOperand u l.m ∧ 0 ≤ readOperand u l.b ∧
      p = ⟨(readOperand u l.a % readOperand u l.m).toNat, (readOperand u l.b).toNat,
        (readOperand u l.m).toNat⟩ := by
  simp only [modOperands] at h
  split at h
  · cases h
  · split at h
    · cases h
    · split at h
      · cases h
      · cases h
        exact ⟨by omega, by omega, rfl⟩

/-- Which error `modOperands` raises, in its priority order (R54, R83). -/
theorem modOperands_error {u : Bool} {l : Latch} {e : CommandError}
    (h : modOperands u l = .error e) :
    (readOperand u l.m = 0 ∧ e = .zeroModulus) ∨ (readOperand u l.m < 0 ∧ e = .negModulus) ∨
      (0 < readOperand u l.m ∧ readOperand u l.b < 0 ∧ e = .negExponent) := by
  simp only [modOperands] at h
  split at h
  · cases h
    exact .inl ⟨‹_›, rfl⟩
  · split at h
    · cases h
      exact .inr (.inl ⟨‹_›, rfl⟩)
    · split at h
      · cases h
        exact .inr (.inr ⟨by omega, ‹_›, rfl⟩)
      · cases h

/-- `modOperands` answers the reduced operands when its checks pass (R54). -/
theorem modOperands_of_valid {u : Bool} {l : Latch} (hm : 0 < readOperand u l.m)
    (hy : 0 ≤ readOperand u l.b) :
    modOperands u l = .ok ⟨(readOperand u l.a % readOperand u l.m).toNat,
      (readOperand u l.b).toNat, (readOperand u l.m).toNat⟩ := by
  simp only [modOperands]
  rw [if_neg (by omega), if_neg (by omega), if_neg (by omega)]

/-- A zero modulus is reported whatever the other operands are (R54). -/
theorem modOperands_of_zero {u : Bool} {l : Latch} (hm : readOperand u l.m = 0) :
    modOperands u l = .error .zeroModulus := by
  simp only [modOperands]
  rw [if_pos hm]

/-- A negative modulus is reported before a negative `y` (R54). -/
theorem modOperands_of_neg {u : Bool} {l : Latch} (hm : readOperand u l.m < 0) :
    modOperands u l = .error .negModulus := by
  simp only [modOperands]
  rw [if_neg (by omega), if_pos hm]

/-- A negative `y` under a positive modulus (R54). -/
theorem modOperands_of_negY {u : Bool} {l : Latch} (hm : 0 < readOperand u l.m)
    (hy : readOperand u l.b < 0) : modOperands u l = .error .negExponent := by
  simp only [modOperands]
  rw [if_neg (by omega), if_neg (by omega), if_pos hy]

@[simp] theorem readOperand_signed (w : Word) : readOperand false w = w.toInt := rfl

@[simp] theorem readOperand_unsigned (w : Word) : readOperand true w = w.toNat := rfl

/-- The unsigned reading raises no error but ZERO_MODULUS (R57, R60). -/
theorem readOperand_unsigned_nonneg (w : Word) : 0 ≤ readOperand true w := by
  simp [readOperand, uint64]

/-- While SVALID is 0 the check answers NOT_BUILT (R72). -/
theorem sieveIndex_of_unbuilt {s : State} {limit : Int} (h : s.status.svalid = false) :
    sieveIndex s limit = .error .notBuilt := if_pos h

/-- Beyond the limit of a built table it answers INDEX_RANGE (R72). -/
theorem sieveIndex_of_beyond {s : State} {limit : Int} (h : s.status.svalid = true)
    (hl : limit < (s.latch.a.toNat : Int)) : sieveIndex s limit = .error .indexRange := by
  unfold sieveIndex
  rw [if_neg (by simp [h])]
  exact if_pos hl

/-- Within the limit of a built table it answers the index (R72). -/
theorem sieveIndex_of_within {s : State} {limit : Int} (h : s.status.svalid = true)
    (hl : (s.latch.a.toNat : Int) ≤ limit) : sieveIndex s limit = .ok s.latch.a.toNat := by
  unfold sieveIndex
  rw [if_neg (by simp [h])]
  exact if_neg (Int.not_lt.2 hl)

/-- What `sieveIndex` answers when it answers an index (R72). -/
theorem sieveIndex_ok {s : State} {limit : Int} {k : Nat} (h : sieveIndex s limit = .ok k) :
    s.status.svalid = true ∧ (s.latch.a.toNat : Int) ≤ limit ∧ k = s.latch.a.toNat := by
  unfold sieveIndex at h
  split at h
  · cases h
  · split at h
    · cases h
    · rename_i h1 h2
      cases h
      exact ⟨by simpa using h1, by simpa [uint64] using h2, rfl⟩

/-- Which error `sieveIndex` raises: NOT_BUILT first (R72, R83). -/
theorem sieveIndex_error {s : State} {limit : Int} {e : CommandError}
    (h : sieveIndex s limit = .error e) :
    (s.status.svalid = false ∧ e = .notBuilt) ∨
      (s.status.svalid = true ∧ limit < (s.latch.a.toNat : Int) ∧ e = .indexRange) := by
  unfold sieveIndex at h
  split at h
  · cases h
    exact .inl ⟨‹_›, rfl⟩
  · split at h
    · rename_i h1 h2
      cases h
      exact .inr ⟨by simpa using h1, by simpa [uint64] using h2, rfl⟩
    · cases h

end Sys2Proof.Machine
end

