-- ==== Sys2Proof/Laws/State.lean ====
section
/-! SUPPORT. One lemma per field per update of the state, each true by rfl, so that no proof unfolds
a record update; and one per flag per flag update. -/

namespace Sys2Proof.Machine

/-! ### accept -/

@[simp] theorem accept_opa (w : Word) (s : State) : (accept w s).opa = s.opa := rfl
@[simp] theorem accept_opb (w : Word) (s : State) : (accept w s).opb = s.opb := rfl
@[simp] theorem accept_opm (w : Word) (s : State) : (accept w s).opm = s.opm := rfl
@[simp] theorem accept_res0 (w : Word) (s : State) : (accept w s).res0 = s.res0 := rfl
@[simp] theorem accept_res1 (w : Word) (s : State) : (accept w s).res1 = s.res1 := rfl
@[simp] theorem accept_res2 (w : Word) (s : State) : (accept w s).res2 = s.res2 := rfl
@[simp] theorem accept_status (w : Word) (s : State) :
    (accept w s).status = s.status.accepted := rfl
@[simp] theorem accept_error (w : Word) (s : State) : (accept w s).error = ErrorRecord.clear := rfl
@[simp] theorem accept_intr (w : Word) (s : State) : (accept w s).intr = s.intr := rfl
@[simp] theorem accept_sieveN (w : Word) (s : State) : (accept w s).sieveN = s.sieveN := rfl
@[simp] theorem accept_sieveCount (w : Word) (s : State) :
    (accept w s).sieveCount = s.sieveCount := rfl
@[simp] theorem accept_latch (w : Word) (s : State) :
    (accept w s).latch = ⟨w, s.opa, s.opb, s.opm⟩ := rfl
@[simp] theorem accept_table (w : Word) (s : State) : (accept w s).table = s.table := rfl
@[simp] theorem accept_response (w : Word) (s : State) : (accept w s).response = s.response := rfl
@[simp] theorem accept_agenda (w : Word) (s : State) : (accept w s).agenda = s.agenda := rfl

/-! ### dropCommand -/

@[simp] theorem dropCommand_opa (s : State) : (dropCommand s).opa = s.opa := rfl
@[simp] theorem dropCommand_opb (s : State) : (dropCommand s).opb = s.opb := rfl
@[simp] theorem dropCommand_opm (s : State) : (dropCommand s).opm = s.opm := rfl
@[simp] theorem dropCommand_res0 (s : State) : (dropCommand s).res0 = s.res0 := rfl
@[simp] theorem dropCommand_res1 (s : State) : (dropCommand s).res1 = s.res1 := rfl
@[simp] theorem dropCommand_res2 (s : State) : (dropCommand s).res2 = s.res2 := rfl
@[simp] theorem dropCommand_status (s : State) : (dropCommand s).status = s.status.overrun := rfl
@[simp] theorem dropCommand_error (s : State) : (dropCommand s).error = s.error := rfl
@[simp] theorem dropCommand_intr (s : State) : (dropCommand s).intr = s.intr := rfl
@[simp] theorem dropCommand_sieveN (s : State) : (dropCommand s).sieveN = s.sieveN := rfl
@[simp] theorem dropCommand_sieveCount (s : State) :
    (dropCommand s).sieveCount = s.sieveCount := rfl
@[simp] theorem dropCommand_latch (s : State) : (dropCommand s).latch = s.latch := rfl
@[simp] theorem dropCommand_table (s : State) : (dropCommand s).table = s.table := rfl
@[simp] theorem dropCommand_response (s : State) : (dropCommand s).response = s.response := rfl
@[simp] theorem dropCommand_agenda (s : State) : (dropCommand s).agenda = s.agenda := rfl

/-! ### finish -/

@[simp] theorem finish_opa (s : State) : (finish s).opa = s.opa := rfl
@[simp] theorem finish_opb (s : State) : (finish s).opb = s.opb := rfl
@[simp] theorem finish_opm (s : State) : (finish s).opm = s.opm := rfl
@[simp] theorem finish_res0 (s : State) : (finish s).res0 = s.res0 := rfl
@[simp] theorem finish_res1 (s : State) : (finish s).res1 = s.res1 := rfl
@[simp] theorem finish_res2 (s : State) : (finish s).res2 = s.res2 := rfl
@[simp] theorem finish_status (s : State) : (finish s).status = s.status.completed := rfl
@[simp] theorem finish_error (s : State) : (finish s).error = s.error := rfl
@[simp] theorem finish_intr (s : State) : (finish s).intr = { s.intr with pend := true } := rfl
@[simp] theorem finish_sieveN (s : State) : (finish s).sieveN = s.sieveN := rfl
@[simp] theorem finish_sieveCount (s : State) : (finish s).sieveCount = s.sieveCount := rfl
@[simp] theorem finish_latch (s : State) : (finish s).latch = s.latch := rfl
@[simp] theorem finish_table (s : State) : (finish s).table = s.table := rfl
@[simp] theorem finish_response (s : State) : (finish s).response = s.response := rfl
@[simp] theorem finish_agenda (s : State) : (finish s).agenda = s.agenda := rfl

/-! ### completeError -/

@[simp] theorem completeError_opa (e : CommandError) (s : State) :
    (completeError e s).opa = s.opa := rfl
@[simp] theorem completeError_opb (e : CommandError) (s : State) :
    (completeError e s).opb = s.opb := rfl
@[simp] theorem completeError_opm (e : CommandError) (s : State) :
    (completeError e s).opm = s.opm := rfl
@[simp] theorem completeError_res0 (e : CommandError) (s : State) :
    (completeError e s).res0 = s.res0 := rfl
@[simp] theorem completeError_res1 (e : CommandError) (s : State) :
    (completeError e s).res1 = s.res1 := rfl
@[simp] theorem completeError_res2 (e : CommandError) (s : State) :
    (completeError e s).res2 = s.res2 := rfl
@[simp] theorem completeError_status (e : CommandError) (s : State) :
    (completeError e s).status = s.status.failed.completed := rfl
@[simp] theorem completeError_error (e : CommandError) (s : State) :
    (completeError e s).error = errorRecord e s.latch := rfl
@[simp] theorem completeError_intr (e : CommandError) (s : State) :
    (completeError e s).intr = { s.intr with pend := true } := rfl
@[simp] theorem completeError_sieveN (e : CommandError) (s : State) :
    (completeError e s).sieveN = s.sieveN := rfl
@[simp] theorem completeError_sieveCount (e : CommandError) (s : State) :
    (completeError e s).sieveCount = s.sieveCount := rfl
@[simp] theorem completeError_latch (e : CommandError) (s : State) :
    (completeError e s).latch = s.latch := rfl
@[simp] theorem completeError_table (e : CommandError) (s : State) :
    (completeError e s).table = s.table := rfl
@[simp] theorem completeError_response (e : CommandError) (s : State) :
    (completeError e s).response = s.response := rfl
@[simp] theorem completeError_agenda (e : CommandError) (s : State) :
    (completeError e s).agenda = s.agenda := rfl

/-! ### setRes0 -/

@[simp] theorem setRes0_opa (v : Word) (s : State) : (setRes0 v s).opa = s.opa := rfl
@[simp] theorem setRes0_opb (v : Word) (s : State) : (setRes0 v s).opb = s.opb := rfl
@[simp] theorem setRes0_opm (v : Word) (s : State) : (setRes0 v s).opm = s.opm := rfl
@[simp] theorem setRes0_res0 (v : Word) (s : State) : (setRes0 v s).res0 = v := rfl
@[simp] theorem setRes0_res1 (v : Word) (s : State) : (setRes0 v s).res1 = s.res1 := rfl
@[simp] theorem setRes0_res2 (v : Word) (s : State) : (setRes0 v s).res2 = s.res2 := rfl
@[simp] theorem setRes0_status (v : Word) (s : State) : (setRes0 v s).status = s.status := rfl
@[simp] theorem setRes0_error (v : Word) (s : State) : (setRes0 v s).error = s.error := rfl
@[simp] theorem setRes0_intr (v : Word) (s : State) : (setRes0 v s).intr = s.intr := rfl
@[simp] theorem setRes0_sieveN (v : Word) (s : State) : (setRes0 v s).sieveN = s.sieveN := rfl
@[simp] theorem setRes0_sieveCount (v : Word) (s : State) :
    (setRes0 v s).sieveCount = s.sieveCount := rfl
@[simp] theorem setRes0_latch (v : Word) (s : State) : (setRes0 v s).latch = s.latch := rfl
@[simp] theorem setRes0_table (v : Word) (s : State) : (setRes0 v s).table = s.table := rfl
@[simp] theorem setRes0_response (v : Word) (s : State) : (setRes0 v s).response = s.response := rfl
@[simp] theorem setRes0_agenda (v : Word) (s : State) : (setRes0 v s).agenda = s.agenda := rfl

/-! ### setResults -/

@[simp] theorem setResults_opa (v0 v1 v2 : Word) (s : State) :
    (setResults v0 v1 v2 s).opa = s.opa := rfl
@[simp] theorem setResults_opb (v0 v1 v2 : Word) (s : State) :
    (setResults v0 v1 v2 s).opb = s.opb := rfl
@[simp] theorem setResults_opm (v0 v1 v2 : Word) (s : State) :
    (setResults v0 v1 v2 s).opm = s.opm := rfl
@[simp] theorem setResults_res0 (v0 v1 v2 : Word) (s : State) :
    (setResults v0 v1 v2 s).res0 = v0 := rfl
@[simp] theorem setResults_res1 (v0 v1 v2 : Word) (s : State) :
    (setResults v0 v1 v2 s).res1 = v1 := rfl
@[simp] theorem setResults_res2 (v0 v1 v2 : Word) (s : State) :
    (setResults v0 v1 v2 s).res2 = v2 := rfl
@[simp] theorem setResults_status (v0 v1 v2 : Word) (s : State) :
    (setResults v0 v1 v2 s).status = s.status := rfl
@[simp] theorem setResults_error (v0 v1 v2 : Word) (s : State) :
    (setResults v0 v1 v2 s).error = s.error := rfl
@[simp] theorem setResults_intr (v0 v1 v2 : Word) (s : State) :
    (setResults v0 v1 v2 s).intr = s.intr := rfl
@[simp] theorem setResults_sieveN (v0 v1 v2 : Word) (s : State) :
    (setResults v0 v1 v2 s).sieveN = s.sieveN := rfl
@[simp] theorem setResults_sieveCount (v0 v1 v2 : Word) (s : State) :
    (setResults v0 v1 v2 s).sieveCount = s.sieveCount := rfl
@[simp] theorem setResults_latch (v0 v1 v2 : Word) (s : State) :
    (setResults v0 v1 v2 s).latch = s.latch := rfl
@[simp] theorem setResults_table (v0 v1 v2 : Word) (s : State) :
    (setResults v0 v1 v2 s).table = s.table := rfl
@[simp] theorem setResults_response (v0 v1 v2 : Word) (s : State) :
    (setResults v0 v1 v2 s).response = s.response := rfl
@[simp] theorem setResults_agenda (v0 v1 v2 : Word) (s : State) :
    (setResults v0 v1 v2 s).agenda = s.agenda := rfl

/-! ### installTable -/

@[simp] theorem installTable_opa (N : Nat) (t : SieveTable) (s : State) :
    (installTable N t s).opa = s.opa := rfl
@[simp] theorem installTable_opb (N : Nat) (t : SieveTable) (s : State) :
    (installTable N t s).opb = s.opb := rfl
@[simp] theorem installTable_opm (N : Nat) (t : SieveTable) (s : State) :
    (installTable N t s).opm = s.opm := rfl
@[simp] theorem installTable_res0 (N : Nat) (t : SieveTable) (s : State) :
    (installTable N t s).res0 = BitVec.ofNat 64 t.primes.length := rfl
@[simp] theorem installTable_res1 (N : Nat) (t : SieveTable) (s : State) :
    (installTable N t s).res1 = s.res1 := rfl
@[simp] theorem installTable_res2 (N : Nat) (t : SieveTable) (s : State) :
    (installTable N t s).res2 = s.res2 := rfl
@[simp] theorem installTable_status (N : Nat) (t : SieveTable) (s : State) :
    (installTable N t s).status = s.status.tableValid := rfl
@[simp] theorem installTable_error (N : Nat) (t : SieveTable) (s : State) :
    (installTable N t s).error = s.error := rfl
@[simp] theorem installTable_intr (N : Nat) (t : SieveTable) (s : State) :
    (installTable N t s).intr = s.intr := rfl
@[simp] theorem installTable_sieveN (N : Nat) (t : SieveTable) (s : State) :
    (installTable N t s).sieveN = BitVec.ofNat 64 N := rfl
@[simp] theorem installTable_sieveCount (N : Nat) (t : SieveTable) (s : State) :
    (installTable N t s).sieveCount = BitVec.ofNat 64 t.primes.length := rfl
@[simp] theorem installTable_latch (N : Nat) (t : SieveTable) (s : State) :
    (installTable N t s).latch = s.latch := rfl
@[simp] theorem installTable_table (N : Nat) (t : SieveTable) (s : State) :
    (installTable N t s).table = t := rfl
@[simp] theorem installTable_response (N : Nat) (t : SieveTable) (s : State) :
    (installTable N t s).response = s.response := rfl
@[simp] theorem installTable_agenda (N : Nat) (t : SieveTable) (s : State) :
    (installTable N t s).agenda = s.agenda := rfl

/-! ### afterSuccess -/

@[simp] theorem State.afterSuccess_opa (s : State) : s.afterSuccess.opa = s.opa := rfl
@[simp] theorem State.afterSuccess_opb (s : State) : s.afterSuccess.opb = s.opb := rfl
@[simp] theorem State.afterSuccess_opm (s : State) : s.afterSuccess.opm = s.opm := rfl
@[simp] theorem State.afterSuccess_res0 (s : State) : s.afterSuccess.res0 = s.res0 := rfl
@[simp] theorem State.afterSuccess_res1 (s : State) : s.afterSuccess.res1 = s.res1 := rfl
@[simp] theorem State.afterSuccess_res2 (s : State) : s.afterSuccess.res2 = s.res2 := rfl
@[simp] theorem State.afterSuccess_status (s : State) :
    s.afterSuccess.status = { s.status with busy := false, done := true } := rfl
@[simp] theorem State.afterSuccess_error (s : State) : s.afterSuccess.error = s.error := rfl
@[simp] theorem State.afterSuccess_intr (s : State) :
    s.afterSuccess.intr = { s.intr with pend := true } := rfl
@[simp] theorem State.afterSuccess_sieveN (s : State) : s.afterSuccess.sieveN = s.sieveN := rfl
@[simp] theorem State.afterSuccess_sieveCount (s : State) :
    s.afterSuccess.sieveCount = s.sieveCount := rfl
@[simp] theorem State.afterSuccess_latch (s : State) : s.afterSuccess.latch = s.latch := rfl
@[simp] theorem State.afterSuccess_table (s : State) : s.afterSuccess.table = s.table := rfl
@[simp] theorem State.afterSuccess_response (s : State) :
    s.afterSuccess.response = s.response := rfl
@[simp] theorem State.afterSuccess_agenda (s : State) : s.afterSuccess.agenda = s.agenda := rfl

/-! ### afterError -/

@[simp] theorem State.afterError_opa (s : State) (c d : BitVec 8) :
    (s.afterError c d).opa = s.opa := rfl
@[simp] theorem State.afterError_opb (s : State) (c d : BitVec 8) :
    (s.afterError c d).opb = s.opb := rfl
@[simp] theorem State.afterError_opm (s : State) (c d : BitVec 8) :
    (s.afterError c d).opm = s.opm := rfl
@[simp] theorem State.afterError_res0 (s : State) (c d : BitVec 8) :
    (s.afterError c d).res0 = s.res0 := rfl
@[simp] theorem State.afterError_res1 (s : State) (c d : BitVec 8) :
    (s.afterError c d).res1 = s.res1 := rfl
@[simp] theorem State.afterError_res2 (s : State) (c d : BitVec 8) :
    (s.afterError c d).res2 = s.res2 := rfl
@[simp] theorem State.afterError_status (s : State) (c d : BitVec 8) :
    (s.afterError c d).status = { s.status with busy := false, done := true, err := true } := rfl
@[simp] theorem State.afterError_error (s : State) (c d : BitVec 8) :
    (s.afterError c d).error = ⟨c, d, s.latch.w.extractLsb' 0 8⟩ := rfl
@[simp] theorem State.afterError_intr (s : State) (c d : BitVec 8) :
    (s.afterError c d).intr = { s.intr with pend := true } := rfl
@[simp] theorem State.afterError_sieveN (s : State) (c d : BitVec 8) :
    (s.afterError c d).sieveN = s.sieveN := rfl
@[simp] theorem State.afterError_sieveCount (s : State) (c d : BitVec 8) :
    (s.afterError c d).sieveCount = s.sieveCount := rfl
@[simp] theorem State.afterError_latch (s : State) (c d : BitVec 8) :
    (s.afterError c d).latch = s.latch := rfl
@[simp] theorem State.afterError_table (s : State) (c d : BitVec 8) :
    (s.afterError c d).table = s.table := rfl
@[simp] theorem State.afterError_response (s : State) (c d : BitVec 8) :
    (s.afterError c d).response = s.response := rfl
@[simp] theorem State.afterError_agenda (s : State) (c d : BitVec 8) :
    (s.afterError c d).agenda = s.agenda := rfl

/-! ### The flags of STATUS -/

@[simp] theorem Status.accepted_busy (f : Status) : f.accepted.busy = true := rfl
@[simp] theorem Status.accepted_done (f : Status) : f.accepted.done = false := rfl
@[simp] theorem Status.accepted_err (f : Status) : f.accepted.err = false := rfl
@[simp] theorem Status.accepted_svalid (f : Status) : f.accepted.svalid = f.svalid := rfl
@[simp] theorem Status.accepted_ovr (f : Status) : f.accepted.ovr = false := rfl
@[simp] theorem Status.completed_busy (f : Status) : f.completed.busy = false := rfl
@[simp] theorem Status.completed_done (f : Status) : f.completed.done = true := rfl
@[simp] theorem Status.completed_err (f : Status) : f.completed.err = f.err := rfl
@[simp] theorem Status.completed_svalid (f : Status) : f.completed.svalid = f.svalid := rfl
@[simp] theorem Status.completed_ovr (f : Status) : f.completed.ovr = f.ovr := rfl
@[simp] theorem Status.failed_busy (f : Status) : f.failed.busy = f.busy := rfl
@[simp] theorem Status.failed_done (f : Status) : f.failed.done = f.done := rfl
@[simp] theorem Status.failed_err (f : Status) : f.failed.err = true := rfl
@[simp] theorem Status.failed_svalid (f : Status) : f.failed.svalid = f.svalid := rfl
@[simp] theorem Status.failed_ovr (f : Status) : f.failed.ovr = f.ovr := rfl
@[simp] theorem Status.overrun_busy (f : Status) : f.overrun.busy = f.busy := rfl
@[simp] theorem Status.overrun_done (f : Status) : f.overrun.done = f.done := rfl
@[simp] theorem Status.overrun_err (f : Status) : f.overrun.err = f.err := rfl
@[simp] theorem Status.overrun_svalid (f : Status) : f.overrun.svalid = f.svalid := rfl
@[simp] theorem Status.overrun_ovr (f : Status) : f.overrun.ovr = true := rfl
@[simp] theorem Status.tableValid_busy (f : Status) : f.tableValid.busy = f.busy := rfl
@[simp] theorem Status.tableValid_done (f : Status) : f.tableValid.done = f.done := rfl
@[simp] theorem Status.tableValid_err (f : Status) : f.tableValid.err = f.err := rfl
@[simp] theorem Status.tableValid_svalid (f : Status) : f.tableValid.svalid = true := rfl
@[simp] theorem Status.tableValid_ovr (f : Status) : f.tableValid.ovr = f.ovr := rfl

/-! ### The two ends of a command in the terms of the statements -/

/-- The model's completion is the spec's (R26). -/
theorem finish_eq_afterSuccess (s : State) : finish s = s.afterSuccess := rfl

/-- The model's error completion is the spec's (R82). -/
theorem completeError_eq_afterError (e : CommandError) (s : State) :
    completeError e s = s.afterError e.cause e.detail := rfl

end Sys2Proof.Machine
end

