-- ==== Sys2Proof/Laws/Ops.lean ====
section
/-! SUPPORT. What each shared operation of the block can do, once: a completion, a host access, a
bus cycle (spec/10_state.md R25, R26, spec/20_memory.md R28–R30, spec/60_exceptions.md R82, R86). -/

namespace Sys2Proof.Machine

/-- A completion always answers a next state: a success or an error completion (R26). -/
theorem settle_cases {r : Except CommandError State} {s t : State} (h : settle r s = .next t) :
    (∃ u, r = .ok u ∧ t = finish u) ∨ (∃ e, r = .error e ∧ t = completeError e s) := by
  cases r with
  | error e => exact .inr ⟨e, rfl, by simpa [settle] using h.symm⟩
  | ok u => exact .inl ⟨u, rfl, by simpa [settle] using h.symm⟩

/-- What an accessor's completion can be: RES0 from an index in range, or one of its two errors
(R72). -/
theorem completeAccessor_cases {limit : Int} {value : Nat → Word} {s t : State}
    (h : completeAccessor limit value s = .next t) :
    (s.status.svalid = true ∧ (s.latch.a.toNat : Int) ≤ limit ∧
      t = finish (setRes0 (value s.latch.a.toNat) s)) ∨
    (s.status.svalid = false ∧ t = completeError .notBuilt s) ∨
    (s.status.svalid = true ∧ limit < (s.latch.a.toNat : Int) ∧
      t = completeError .indexRange s) := by
  rcases settle_cases h with ⟨u, hr, rfl⟩ | ⟨e, hr, rfl⟩
  · cases hi : sieveIndex s limit with
    | error e => rw [hi] at hr; cases hr
    | ok k =>
      rw [hi] at hr
      obtain ⟨h1, h2, rfl⟩ := sieveIndex_ok hi
      cases hr
      exact .inl ⟨h1, h2, rfl⟩
  · cases hi : sieveIndex s limit with
    | error e' =>
      rw [hi] at hr
      cases hr
      rcases sieveIndex_error hi with ⟨h1, rfl⟩ | ⟨h1, h2, rfl⟩
      · exact .inr (.inl ⟨h1, rfl⟩)
      · exact .inr (.inr ⟨h1, h2, rfl⟩)
    | ok k => rw [hi] at hr; cases hr

/-- What a host access can do: it is performed, refused with a bus error, or outside the window. -/
theorem hostAccess_cases (a : Access) (s : State) :
    (a.inWindow = true ∧ a.admitted = true ∧ hostAccess a s = .next (performAccess a s)) ∨
    (a.inWindow = true ∧ a.admitted = false ∧
      hostAccess a s = .next { s with response := .busError }) ∨
    (a.inWindow = false ∧ hostAccess a s = .fault .outsideWindow) := by
  cases h1 : a.inWindow <;> cases h2 : a.admitted <;> simp [hostAccess, h1, h2]

/-- Inside the window means offsets 0 to 0xFF (R27). -/
theorem inWindow_iff (a : Access) : a.inWindow = true ↔ 0 ≤ a.offset ∧ a.offset ≤ 0xFF := by
  simp [Access.inWindow]

/-- Admitted means 8 bytes at a multiple of 8 (R28). -/
theorem admitted_iff (a : Access) : a.admitted = true ↔ a.size = 8 ∧ a.offset % 8 = 0 := by
  simp [Access.admitted]

/-- `regAt` finds a register at its offset (R9). -/
theorem regAt_offset (r : Reg) : regAt r.offset = some r := by
  cases r <;> rfl

/-- A register found at a non-negative offset stands at its own offset (R9). -/
theorem offset_of_regAt {o : Int} {r : Reg} (h0 : 0 ≤ o) (h : regAt o = some r) :
    o = r.offset := by
  obtain ⟨n, rfl⟩ := Int.eq_ofNat_of_zero_le h0
  simp only [regAt, Int.toNat_natCast] at h
  split at h <;> cases h <;> rfl

/-- What a write at an admitted offset can change: it accepts or drops a command, writes INTR or an
operand register, or changes nothing (R30). -/
theorem writeOffset_cases {o : Int} (h0 : 0 ≤ o) (v : Word) (s : State) :
    (o = 0x08 ∧ s.status.busy = false ∧ writeOffset o v s = accept v s) ∨
    (o = 0x08 ∧ s.status.busy = true ∧ writeOffset o v s = dropCommand s) ∨
    (o = 0x20 ∧ writeOffset o v s = { s with intr := s.intr.hostWrite v }) ∨
    (o = 0x28 ∧ writeOffset o v s = { s with opa := v }) ∨
    (o = 0x30 ∧ writeOffset o v s = { s with opb := v }) ∨
    (o = 0x38 ∧ writeOffset o v s = { s with opm := v }) ∨
    (o ∉ [0x08, 0x20, 0x28, 0x30, 0x38] ∧ writeOffset o v s = s) := by
  cases hr : regAt o with
  | none =>
    have : o ∉ [(0x08 : Int), 0x20, 0x28, 0x30, 0x38] := by
      intro hm
      simp only [List.mem_cons, List.not_mem_nil, or_false] at hm
      rcases hm with rfl | rfl | rfl | rfl | rfl <;> cases hr
    simp [this, writeOffset, hr]
  | some r =>
    have hw : writeOffset o v s = writeReg r v s := by rw [writeOffset, hr]
    rw [hw, offset_of_regAt h0 hr]
    cases hb : s.status.busy <;> cases r <;> simp [writeReg, writeCmd, Reg.offset, hb]

/-- The effects a host access can have on the state (R28, R30). -/
inductive AccessEffect (a : Access) (s : State) : State → Prop
  | accepted (w : Word) : a = .write 0x08 8 w → s.status.busy = false →
      AccessEffect a s { accept w s with response := .written }
  | dropped (w : Word) : a = .write 0x08 8 w → s.status.busy = true →
      AccessEffect a s { dropCommand s with response := .written }
  | intr (v : Word) : a = .write 0x20 8 v →
      AccessEffect a s { s with intr := s.intr.hostWrite v, response := .written }
  | opa (v : Word) : a = .write 0x28 8 v →
      AccessEffect a s { s with opa := v, response := .written }
  | opb (v : Word) : a = .write 0x30 8 v →
      AccessEffect a s { s with opb := v, response := .written }
  | opm (v : Word) : a = .write 0x38 8 v →
      AccessEffect a s { s with opm := v, response := .written }
  | none (r : BusResponse) : AccessEffect a s { s with response := r }

/-- What a host access answers, inverted. -/
theorem hostAccess_inv {a : Access} {s t : State} (h : hostAccess a s = .next t) :
    a.inWindow = true ∧ AccessEffect a s t := by
  rcases hostAccess_cases a s with ⟨hw, had, he⟩ | ⟨hw, _, he⟩ | ⟨_, he⟩
  · rw [he] at h
    cases h
    refine ⟨hw, ?_⟩
    cases a with
    | read o n => exact .none _
    | write o n v =>
      have h0 : 0 ≤ o := ((inWindow_iff _).1 hw).1
      obtain rfl : n = 8 := ((admitted_iff _).1 had).1
      simp only [performAccess]
      rcases writeOffset_cases h0 v s with ⟨rfl, hb, hx⟩ | ⟨rfl, hb, hx⟩ | ⟨rfl, hx⟩ | ⟨rfl, hx⟩ |
        ⟨rfl, hx⟩ | ⟨rfl, hx⟩ | ⟨_, hx⟩ <;> rw [hx]
      · exact .accepted v rfl hb
      · exact .dropped v rfl hb
      · exact .intr v rfl
      · exact .opa v rfl
      · exact .opb v rfl
      · exact .opm v rfl
      · exact .none _
  · rw [he] at h
    cases h
    exact ⟨hw, .none _⟩
  · rw [he] at h
    cases h

/-- A host access inside the window always answers a next state. -/
theorem hostAccess_next {a : Access} (h : a.inWindow = true) (s : State) :
    ∃ t, hostAccess a s = .next t ∧ AccessEffect a s t := by
  rcases hostAccess_cases a s with ⟨_, _, e⟩ | ⟨_, _, e⟩ | ⟨hw, _⟩
  · exact ⟨_, e, (hostAccess_inv e).2⟩
  · exact ⟨_, e, (hostAccess_inv e).2⟩
  · rw [h] at hw
    cases hw

/-- What a bus cycle can do: reset, an access alone, a completion step alone, or both in one of the
two orders, a CMD write always last and an INTR write always first (R86). -/
theorem runCycle_cases (c : Cycle) (s : State) :
    (c.reset = true ∧ runCycle c s = .next (resetBlock c.access s)) ∨
    (c.reset = false ∧ c.access = none ∧ c.completes = false ∧ runCycle c s = .next s) ∨
    (c.reset = false ∧ c.access = none ∧ c.completes = true ∧ runCycle c s = completionStep s) ∨
    (c.reset = false ∧ ∃ a, c.access = some a ∧
      ((c.completes = false ∧ runCycle c s = hostAccess a s) ∨
       (c.completes = true ∧ completionOrderedFirst c a = true ∧
          runCycle c s = andThen (completionStep s) (hostAccess a)) ∨
       (c.completes = true ∧ completionOrderedFirst c a = false ∧
          runCycle c s = andThen (hostAccess a s) completionStep))) := by
  cases h1 : c.reset <;> cases h2 : c.access with
  | none => cases h3 : c.completes <;> simp [runCycle, h1, h2, h3]
  | some a =>
    cases h3 : c.completes <;> cases h4 : completionOrderedFirst c a <;>
      simp [runCycle, h1, h2, h3, h4]

/-- A step is the agenda's first cycle, or the block's own cycle when the agenda is empty. -/
theorem step_eq_runCycle (s : State) :
    step s = runCycle s.nextCycle { s with agenda := s.agenda.tail } := by
  obtain ⟨⟩ := s
  rename_i agenda
  cases agenda <;> rfl

end Sys2Proof.Machine
end

