-- ==== Sys2Proof/Laws/Exec.lean ====
section
/-! SUPPORT. Once, everything the completion of a command can do (spec/10_state.md R26,
spec/60_exceptions.md R81, R82), and everything a completion step and a bus access can do. -/

namespace Sys2Proof.Machine

/-- The errors a command can raise (R81). -/
def possibleErrors (i : Instr) : List CommandError :=
  match i with
  | .egcd => []
  | .modmul => [.zeroModulus, .negModulus, .negExponent]
  | .modmulU => [.zeroModulus]
  | .modexp => [.zeroModulus, .negModulus, .negExponent]
  | .modexpU => [.zeroModulus]
  | .isprime => []
  | .isprimeU => []
  | .sieveBuild => [.sieveBound]
  | .sieveSpf => [.notBuilt, .indexRange]
  | .sieveExp => [.notBuilt, .indexRange]
  | .sievePhi => [.notBuilt, .indexRange]
  | .sieveMu => [.notBuilt, .indexRange]
  | .sievePrime => [.notBuilt, .indexRange]
  | .sieveIsprime => [.notBuilt, .indexRange]

/-- One of the four ways a command can complete: RES0 alone, egcd's three results, a table, or one
of its errors. -/
inductive Completes (i : Instr) (s : State) : State → Prop
  | result (v : Word) : i ≠ .egcd → i ≠ .sieveBuild → Completes i s (finish (setRes0 v s))
  | triple (v0 v1 v2 : Word) : i = .egcd → Completes i s (finish (setResults v0 v1 v2 s))
  | build (N : Nat) : i = .sieveBuild → N = s.latch.a.toNat → 1 ≤ N → N ≤ Config.sieveNMax →
      Completes i s (finish (installTable N (linearSieve N) s))
  | failure (e : CommandError) : e ∈ possibleErrors i → Completes i s (completeError e s)

/-- An error of the modular operands is one the command can raise; the unsigned reading raises
ZERO_MODULUS alone. -/
theorem modOperands_error_possible {i : Instr} {u : Bool} {l : Latch} {e : CommandError}
    (h : modOperands u l = .error e) (hz : CommandError.zeroModulus ∈ possibleErrors i)
    (hn : u = false → .negModulus ∈ possibleErrors i ∧ .negExponent ∈ possibleErrors i) :
    e ∈ possibleErrors i := by
  rcases modOperands_error h with ⟨_, rfl⟩ | ⟨hneg, rfl⟩ | ⟨_, hneg, rfl⟩
  · exact hz
  · cases u with
    | false => exact (hn rfl).1
    | true => have := readOperand_unsigned_nonneg l.m; omega
  · cases u with
    | false => exact (hn rfl).2
    | true => have := readOperand_unsigned_nonneg l.b; omega

theorem completeModmul_completes {i : Instr} {u : Bool} (s : State) (h1 : i ≠ .egcd)
    (h2 : i ≠ .sieveBuild) (hz : CommandError.zeroModulus ∈ possibleErrors i)
    (hn : u = false → .negModulus ∈ possibleErrors i ∧ .negExponent ∈ possibleErrors i) :
    ∃ t, completeModmul u s = .next t ∧ Completes i s t := by
  unfold completeModmul
  cases hm : modOperands u s.latch with
  | ok p => exact ⟨_, rfl, .result _ h1 h2⟩
  | error e => exact ⟨_, rfl, .failure e (modOperands_error_possible hm hz hn)⟩

theorem completeModexp_completes {i : Instr} {u : Bool} (s : State) (h1 : i ≠ .egcd)
    (h2 : i ≠ .sieveBuild) (hz : CommandError.zeroModulus ∈ possibleErrors i)
    (hn : u = false → .negModulus ∈ possibleErrors i ∧ .negExponent ∈ possibleErrors i) :
    ∃ t, completeModexp u s = .next t ∧ Completes i s t := by
  unfold completeModexp
  cases hm : modOperands u s.latch with
  | ok p => exact ⟨_, rfl, .result _ h1 h2⟩
  | error e => exact ⟨_, rfl, .failure e (modOperands_error_possible hm hz hn)⟩

theorem completeAccessor_completes {i : Instr} (limit : Int) (value : Nat → Word) (s : State)
    (h1 : i ≠ .egcd) (h2 : i ≠ .sieveBuild) (hn : CommandError.notBuilt ∈ possibleErrors i)
    (hr : CommandError.indexRange ∈ possibleErrors i) :
    ∃ t, completeAccessor limit value s = .next t ∧ Completes i s t := by
  cases h : completeAccessor limit value s with
  | next t =>
    refine ⟨t, rfl, ?_⟩
    rcases completeAccessor_cases h with ⟨_, _, rfl⟩ | ⟨_, rfl⟩ | ⟨_, _, rfl⟩
    · exact .result _ h1 h2
    · exact .failure _ hn
    · exact .failure _ hr
  | fault r =>
    unfold completeAccessor settle at h
    split at h <;> cases h
  | refused r =>
    unfold completeAccessor settle at h
    split at h <;> cases h

/-- Every command completes, in one of its ways. -/
theorem exec_completes (i : Instr) (s : State) : ∃ t, exec i s = .next t ∧ Completes i s t := by
  cases i with
  | egcd => exact ⟨_, rfl, .triple _ _ _ rfl⟩
  | modmul => exact completeModmul_completes s (by decide) (by decide) (by decide) (by decide)
  | modmulU => exact completeModmul_completes s (by decide) (by decide) (by decide) (by decide)
  | modexp => exact completeModexp_completes s (by decide) (by decide) (by decide) (by decide)
  | modexpU => exact completeModexp_completes s (by decide) (by decide) (by decide) (by decide)
  | isprime => exact ⟨_, rfl, .result _ (by decide) (by decide)⟩
  | isprimeU => exact ⟨_, rfl, .result _ (by decide) (by decide)⟩
  | sieveBuild =>
    simp only [exec, execSieveBuild]
    cases hb : sieveBound s.latch with
    | ok N =>
      obtain ⟨h1, h2, h3⟩ := sieveBound_ok hb
      exact ⟨_, rfl, .build N rfl h1 h2 h3⟩
    | error e =>
      exact ⟨_, rfl, .failure e (by rw [sieveBound_error hb]; decide)⟩
  | sieveSpf => exact completeAccessor_completes _ _ s (by decide) (by decide) (by decide) (by decide)
  | sieveExp => exact completeAccessor_completes _ _ s (by decide) (by decide) (by decide) (by decide)
  | sievePhi => exact completeAccessor_completes _ _ s (by decide) (by decide) (by decide) (by decide)
  | sieveMu => exact completeAccessor_completes _ _ s (by decide) (by decide) (by decide) (by decide)
  | sievePrime =>
    exact completeAccessor_completes _ _ s (by decide) (by decide) (by decide) (by decide)
  | sieveIsprime =>
    exact completeAccessor_completes _ _ s (by decide) (by decide) (by decide) (by decide)

/-- What exec answers, inverted. -/
theorem exec_inv {i : Instr} {s t : State} (h : exec i s = .next t) : Completes i s t := by
  obtain ⟨t', h', hc⟩ := exec_completes i s
  rw [h] at h'
  cases h'
  exact hc

/-- What a completion step does: nothing when idle; else the latched command completes, or its word
is illegal (R26, R44). -/
theorem completionStep_cases (s : State) :
    (s.status.busy = false ∧ completionStep s = .next s) ∨
    (s.status.busy = true ∧ ∃ i t, decode s.latch.w = .ok i ∧ completionStep s = .next t ∧
      exec i s = .next t ∧ Completes i s t) ∨
    (s.status.busy = true ∧ ∃ why, decode s.latch.w = .error why ∧
      completionStep s = .next (completeError (.illegal why) s)) := by
  cases hb : s.status.busy with
  | false => exact .inl ⟨rfl, by simp [completionStep, hb]⟩
  | true =>
    cases hd : decode s.latch.w with
    | ok i =>
      obtain ⟨t, ht, hc⟩ := exec_completes i s
      exact .inr (.inl ⟨rfl, i, t, rfl, by simp [completionStep, hb, execute, hd, ht], ht, hc⟩)
    | error why =>
      exact .inr (.inr ⟨rfl, why, rfl, by simp [completionStep, hb, execute, hd]⟩)

/-- A completion step always answers a next state, idle afterwards. -/
theorem completionStep_next (s : State) :
    ∃ t, completionStep s = .next t ∧ t.status.busy = false := by
  rcases completionStep_cases s with ⟨hb, h⟩ | ⟨_, i, t, _, h, _, hc⟩ | ⟨_, why, _, h⟩
  · exact ⟨s, h, hb⟩
  · exact ⟨t, h, by cases hc <;> rfl⟩
  · exact ⟨_, h, rfl⟩

/-- The next states of a completion step: nothing when idle, a completion of the latched command, or
the error completion of an illegal word. -/
inductive StepEffect (s : State) : State → Prop
  | idle : s.status.busy = false → StepEffect s s
  | completed (i : Instr) (t : State) : s.status.busy = true → decode s.latch.w = .ok i →
      exec i s = .next t → Completes i s t → StepEffect s t
  | illegal (why : DecodeRefusal) : s.status.busy = true → decode s.latch.w = .error why →
      StepEffect s (completeError (.illegal why) s)

/-- What a completion step answers, inverted. -/
theorem completionStep_inv {s t : State} (h : completionStep s = .next t) : StepEffect s t := by
  rcases completionStep_cases s with ⟨hb, h'⟩ | ⟨hb, i, t', hd, h', he, hc⟩ | ⟨hb, why, hd, h'⟩ <;>
    rw [h'] at h <;> cases h
  · exact .idle hb
  · exact .completed i _ hb hd he hc
  · exact .illegal why hb hd

/-- The next states of a bus cycle, as the order of its parts gives them (R86). -/
inductive CycleEffect (c : Cycle) (s : State) : State → Prop
  | reset : c.reset = true → CycleEffect c s (resetBlock c.access s)
  | quiet : c.reset = false → c.access = none → c.completes = false → CycleEffect c s s
  | own (t : State) : c.reset = false → c.access = none → c.completes = true → StepEffect s t →
      CycleEffect c s t
  | access (a : Access) (t : State) : c.reset = false → c.access = some a → c.completes = false →
      AccessEffect a s t → CycleEffect c s t
  | completionThenAccess (a : Access) (u t : State) : c.reset = false → c.access = some a →
      c.completes = true → completionOrderedFirst c a = true → StepEffect s u →
      AccessEffect a u t → CycleEffect c s t
  | accessThenCompletion (a : Access) (u t : State) : c.reset = false → c.access = some a →
      c.completes = true → completionOrderedFirst c a = false → AccessEffect a s u →
      StepEffect u t → CycleEffect c s t

/-- `andThen` answers a next state only through a next state of its first part. -/
theorem andThen_next {o : Host.Outcome State Fault Refusal}
    {f : State → Host.Outcome State Fault Refusal} {t : State} (h : andThen o f = .next t) :
    ∃ u, o = .next u ∧ f u = .next t := by
  cases o with
  | next u => exact ⟨u, rfl, h⟩
  | fault r => cases h
  | refused r => cases h

/-- What a bus cycle answers, inverted. -/
theorem runCycle_inv {c : Cycle} {s t : State} (h : runCycle c s = .next t) :
    CycleEffect c s t := by
  rcases runCycle_cases c s with ⟨hr, he⟩ | ⟨hr, ha, hc, he⟩ | ⟨hr, ha, hc, he⟩ |
    ⟨hr, a, ha, ⟨hc, he⟩ | ⟨hc, ho, he⟩ | ⟨hc, ho, he⟩⟩ <;> rw [he] at h
  · cases h
    exact .reset hr
  · cases h
    exact .quiet hr ha hc
  · exact .own t hr ha hc (completionStep_inv h)
  · exact .access a t hr ha hc (hostAccess_inv h).2
  · obtain ⟨u, h1, h2⟩ := andThen_next h
    exact .completionThenAccess a u t hr ha hc ho (completionStep_inv h1) (hostAccess_inv h2).2
  · obtain ⟨u, h1, h2⟩ := andThen_next h
    exact .accessThenCompletion a u t hr ha hc ho (hostAccess_inv h1).2 (completionStep_inv h2)

/-- What a step answers, inverted: the effect of the next cycle, the agenda shortened. -/
theorem step_inv {s t : State} (h : step s = .next t) :
    CycleEffect s.nextCycle { s with agenda := s.agenda.tail } t :=
  runCycle_inv (by rw [← step_eq_runCycle]; exact h)

/-- A run whose first step answers a next state goes on from it. -/
theorem run_of_step {s t : State} (k : Nat) (h : step s = .next t) :
    Sys2Proof.core.run (k + 1) s = Sys2Proof.core.run k t := by
  have h' : Sys2Proof.core.step s = .next t := h
  simp only [Host.Core.run]
  split <;> rename_i hx <;> rw [h'] at hx <;> cases hx
  rfl

end Sys2Proof.Machine
end

