-- ==== Sys2Proof/Laws/Flags.lean ====
section
/-! SUPPORT. The numbers the flag registers read as (spec/10_state.md R12–R14), and the latched
fields as parts of the word (spec/30_encoding.md R40). -/

namespace Sys2Proof.Machine

/-- STATUS as a number: each flag at its bit (R12). -/
theorem Status.word_toNat (f : Status) :
    f.word.toNat = f.busy.toNat + 2 * f.done.toNat + 4 * f.err.toNat + 8 * f.svalid.toNat +
      16 * f.ovr.toNat := by
  obtain ⟨b0, b1, b2, b3, b4⟩ := f
  revert b0 b1 b2 b3 b4
  decide

/-- INTR as a number (R14). -/
theorem Intr.word_toNat (f : Intr) : f.word.toNat = f.pend.toNat + 2 * f.ie.toNat := by
  obtain ⟨b0, b1⟩ := f
  revert b0 b1
  decide

/-- ERROR as a number: CAUSE, DETAIL and EOPC at their bytes (R13). -/
theorem ErrorRecord.word_toNat (e : ErrorRecord) :
    e.word.toNat = e.cause.toNat + 256 * e.detail.toNat + 65536 * e.eopc.toNat := by
  obtain ⟨c, d, o⟩ := e
  have hc := c.isLt
  have hd := d.isLt
  have h1 : (0#40 ++ o).toNat = o.toNat := by
    rw [BitVec.toNat_append]
    simp
  have h2 : (0#40 ++ o ++ d).toNat = o.toNat * 256 + d.toNat := by
    rw [BitVec.toNat_append, h1, Nat.shiftLeft_add_eq_or_of_lt (by omega) o.toNat |>.symm,
      Nat.shiftLeft_eq]
  have h3 : (0#40 ++ o ++ d ++ c).toNat = (o.toNat * 256 + d.toNat) * 256 + c.toNat := by
    rw [BitVec.toNat_append, h2, (Nat.shiftLeft_add_eq_or_of_lt (by omega) _).symm,
      Nat.shiftLeft_eq]
  change (0#40 ++ o ++ d ++ c).toNat = c.toNat + 256 * d.toNat + 65536 * o.toNat
  rw [h3]
  omega

end Sys2Proof.Machine
end

