-- ==== Sys2Proof/Laws/Modular.lean ====
section
/-! SUPPORT. The loops of MulMod and PowMod compute the residue of the product and of the power
(spec/41_modular.md R55, R58): "any other exact method gives the same result". -/

namespace Sys2Proof.Machine

/-- The loop's invariant: `acc + t·e` keeps its residue, and `fuel` bits of `e` are enough. -/
theorem mulModLoop_eq (m : Nat) :
    ∀ fuel acc t e : Nat, e < 2 ^ fuel → acc < m →
      mulModLoop fuel acc t e m = (acc + t * e) % m := by
  intro fuel
  induction fuel with
  | zero =>
    intro acc t e he ha
    have : e = 0 := by simpa using he
    simp [mulModLoop, this, Nat.mod_eq_of_lt ha]
  | succ fuel ih =>
    intro acc t e he ha
    unfold mulModLoop
    by_cases h0 : e = 0
    · simp [h0, Nat.mod_eq_of_lt ha]
    · have hm : 0 < m := by omega
      have he2 : e / 2 < 2 ^ fuel := by rw [pow_succ] at he; omega
      have hsplit : e = 2 * (e / 2) + e % 2 := (Nat.div_add_mod e 2).symm
      simp only [h0, if_false, wideMod, wideAdd]
      by_cases h1 : e % 2 = 1
      · rw [if_pos h1, ih _ _ _ he2 (Nat.mod_lt _ hm)]
        have : acc + t * e = (acc + t) + (t + t) * (e / 2) := by
          conv_lhs => rw [hsplit, h1]
          ring
        rw [this, Nat.add_mod ((acc + t) % m), Nat.add_mod (acc + t)]
        simp [Nat.mul_mod]
      · rw [if_neg h1, ih _ _ _ he2 ha]
        have : acc + t * e = acc + (t + t) * (e / 2) := by
          have h2 : e % 2 = 0 := by omega
          conv_lhs => rw [hsplit, h2]
          ring
        rw [this, Nat.add_mod acc, Nat.add_mod acc ((t + t) * (e / 2))]
        simp [Nat.mul_mod]

/-- `MulMod(xr, y, m) = (xr·y) mod m` (R55). -/
theorem mulMod_eq {xr y m : Nat} (hm : 0 < m) (hy : y < 2 ^ 64) :
    mulMod xr y m = xr * y % m := by
  rw [mulMod, operandBits, mulModLoop_eq m 64 0 xr y hy hm, Nat.zero_add]

/-- The loop's invariant: `acc·base^e` keeps its residue, and `fuel` bits of `e` are enough. -/
theorem powModLoop_eq (m : Nat) :
    ∀ fuel acc base e : Nat, e < 2 ^ fuel → acc < m →
      powModLoop fuel acc base e m = acc * base ^ e % m := by
  intro fuel
  induction fuel with
  | zero =>
    intro acc base e he ha
    have : e = 0 := by simpa using he
    simp [powModLoop, this, Nat.mod_eq_of_lt ha]
  | succ fuel ih =>
    intro acc base e he ha
    unfold powModLoop
    by_cases h0 : e = 0
    · simp [h0, Nat.mod_eq_of_lt ha]
    · have hm : 0 < m := by omega
      have he2 : e / 2 < 2 ^ fuel := by rw [pow_succ] at he; omega
      have hsplit : e = 2 * (e / 2) + e % 2 := (Nat.div_add_mod e 2).symm
      simp only [h0, if_false, wideMod, wideMul]
      by_cases h1 : e % 2 = 1
      · rw [if_pos h1, ih _ _ _ he2 (Nat.mod_lt _ hm)]
        have : acc * base ^ e = (acc * base) * (base * base) ^ (e / 2) := by
          conv_lhs => rw [hsplit, h1]
          rw [pow_succ, pow_mul, pow_two]
          ring
        rw [this, Nat.mul_mod ((acc * base) % m), Nat.mul_mod (acc * base)]
        simp [Nat.pow_mod]
      · rw [if_neg h1, ih _ _ _ he2 ha]
        have : acc * base ^ e = acc * (base * base) ^ (e / 2) := by
          have h2 : e % 2 = 0 := by omega
          conv_lhs => rw [hsplit, h2]
          rw [Nat.add_zero, pow_mul, pow_two]
        rw [this, Nat.mul_mod acc, Nat.mul_mod acc ((base * base) ^ (e / 2))]
        simp [Nat.pow_mod]

/-- `PowMod(xr, y, m) = xr^y mod m`, with `xr⁰ = 1` (R58). -/
theorem powMod_eq {xr y m : Nat} (hm : 0 < m) (hy : y < 2 ^ 64) :
    powMod xr y m = xr ^ y % m := by
  rw [powMod, operandBits, powModLoop_eq m 64 _ xr y hy (Nat.mod_lt _ hm)]
  rw [Nat.mul_mod, Nat.mod_mod, ← Nat.mul_mod, Nat.one_mul]

end Sys2Proof.Machine
end

