-- ==== Sys2Proof/Laws/PerInstr.lean ====
section
/-! SUPPORT. A statement made per command: the encoding of each command leaves the reserved field 0
and uses U only where the command defines it (spec/30_encoding.md R40, R42). -/

namespace Sys2Proof

/-- The command's word has a clear reserved field, passes the checks of R44, and its U bit is 1 only
for the unsigned forms. -/
def Laws.EncodingIsLegal.Statement (i : Instr) : Prop :=
  (encode i).toNat / 512 = 0 ∧ i.wellFormed = true ∧
    ((encode i).getLsbD 8 = true ↔ i = .modmulU ∨ i = .modexpU ∨ i = .isprimeU)

theorem Laws.EncodingIsLegal.egcd : Laws.EncodingIsLegal.Statement .egcd := by
  unfold Laws.EncodingIsLegal.Statement; decide
theorem Laws.EncodingIsLegal.modmul : Laws.EncodingIsLegal.Statement .modmul := by
  unfold Laws.EncodingIsLegal.Statement; decide
theorem Laws.EncodingIsLegal.modmulU : Laws.EncodingIsLegal.Statement .modmulU := by
  unfold Laws.EncodingIsLegal.Statement; decide
theorem Laws.EncodingIsLegal.modexp : Laws.EncodingIsLegal.Statement .modexp := by
  unfold Laws.EncodingIsLegal.Statement; decide
theorem Laws.EncodingIsLegal.modexpU : Laws.EncodingIsLegal.Statement .modexpU := by
  unfold Laws.EncodingIsLegal.Statement; decide
theorem Laws.EncodingIsLegal.isprime : Laws.EncodingIsLegal.Statement .isprime := by
  unfold Laws.EncodingIsLegal.Statement; decide
theorem Laws.EncodingIsLegal.isprimeU : Laws.EncodingIsLegal.Statement .isprimeU := by
  unfold Laws.EncodingIsLegal.Statement; decide
theorem Laws.EncodingIsLegal.sieveBuild : Laws.EncodingIsLegal.Statement .sieveBuild := by
  unfold Laws.EncodingIsLegal.Statement; decide
theorem Laws.EncodingIsLegal.sieveSpf : Laws.EncodingIsLegal.Statement .sieveSpf := by
  unfold Laws.EncodingIsLegal.Statement; decide
theorem Laws.EncodingIsLegal.sieveExp : Laws.EncodingIsLegal.Statement .sieveExp := by
  unfold Laws.EncodingIsLegal.Statement; decide
theorem Laws.EncodingIsLegal.sievePhi : Laws.EncodingIsLegal.Statement .sievePhi := by
  unfold Laws.EncodingIsLegal.Statement; decide
theorem Laws.EncodingIsLegal.sieveMu : Laws.EncodingIsLegal.Statement .sieveMu := by
  unfold Laws.EncodingIsLegal.Statement; decide
theorem Laws.EncodingIsLegal.sievePrime : Laws.EncodingIsLegal.Statement .sievePrime := by
  unfold Laws.EncodingIsLegal.Statement; decide
theorem Laws.EncodingIsLegal.sieveIsprime : Laws.EncodingIsLegal.Statement .sieveIsprime := by
  unfold Laws.EncodingIsLegal.Statement; decide

end Sys2Proof
end

