-- ==== Sys2Proof/Laws/Sieve.lean ====
section
/-! SUPPORT. The shape of the sieve table through a build: the arrays keep their length, and the
prime list never holds more entries than the numbers visited (spec/10_state.md R21,
spec/43_sieve.md R69). -/

namespace Sys2Proof.Machine

/-- The arrays reach exactly the indices 0..N. -/
def SieveTable.reaches (t : SieveTable) (N : Nat) : Prop :=
  t.spf.length = N + 1 ∧ t.expt.length = N + 1 ∧ t.phi.length = N + 1 ∧ t.mu.length = N + 1

theorem sieveInit_reaches (N : Nat) : (sieveInit N).reaches N := by
  simp [SieveTable.reaches, sieveInit]

theorem put_reaches {t : SieveTable} {N : Nat} (h : t.reaches N) (k a b c : Nat) (d : Int) :
    (t.put k a b c d).reaches N := by
  simpa [SieveTable.reaches, SieveTable.put] using h

@[simp] theorem put_primes (t : SieveTable) (k a b c : Nat) (d : Int) :
    (t.put k a b c d).primes = t.primes := rfl

/-- A visit keeps the arrays' reach and adds at most `i` itself to the list. -/
theorem sieveVisit_spec {t : SieveTable} {N : Nat} (i : Nat) (h : t.reaches N) :
    (sieveVisit i t).reaches N ∧
      ((sieveVisit i t).primes = t.primes ∨ (sieveVisit i t).primes = t.primes ++ [i]) := by
  unfold sieveVisit
  split
  · exact ⟨put_reaches h i i 1 (i - 1) (-1), .inr rfl⟩
  · exact ⟨h, .inl rfl⟩

/-- The inner loop keeps the arrays' reach and the list. -/
theorem sieveInner_spec {N : Nat} (i : Nat) :
    ∀ (ps : List Nat) (t : SieveTable), t.reaches N →
      (sieveInner N i ps t).reaches N ∧ (sieveInner N i ps t).primes = t.primes := by
  intro ps
  induction ps with
  | nil => exact fun t h => ⟨h, rfl⟩
  | cons p ps ih =>
    intro t h
    unfold sieveInner
    split
    · exact ⟨h, rfl⟩
    · split
      · exact ⟨put_reaches h .., rfl⟩
      · obtain ⟨h1, h2⟩ := ih _ (put_reaches h (i * p) p p (t.phi.getD i 0 * (p - 1))
          (-t.mu.getD i 0))
        exact ⟨h1, h2⟩

/-- The pass over a list of numbers keeps the reach and adds at most one entry for each. -/
theorem sievePass_spec {N : Nat} :
    ∀ (is : List Nat) (t : SieveTable), t.reaches N →
      (is.foldl (sieveOuter N) t).reaches N ∧
        (is.foldl (sieveOuter N) t).primes.length ≤ t.primes.length + is.length := by
  intro is
  induction is with
  | nil => exact fun t h => ⟨h, Nat.le_refl _⟩
  | cons i is ih =>
    intro t h
    obtain ⟨hv, hp⟩ := sieveVisit_spec i h
    obtain ⟨ho, hq⟩ := sieveInner_spec i (sieveVisit i t).primes _ hv
    obtain ⟨h1, h2⟩ := ih (sieveOuter N t i) ho
    refine ⟨h1, ?_⟩
    have hlen : (sieveOuter N t i).primes.length ≤ t.primes.length + 1 := by
      unfold sieveOuter
      rw [hq]
      rcases hp with hp | hp <;> simp [hp]
    simp only [List.foldl_cons, List.length_cons]
    omega

/-- A built table reaches exactly 0..N and lists fewer than N + 1 primes. -/
theorem linearSieve_reaches (N : Nat) :
    (linearSieve N).reaches N ∧ (linearSieve N).primes.length ≤ N := by
  obtain ⟨h1, h2⟩ := sievePass_spec (List.range' 2 (N - 1)) (sieveInit N) (sieveInit_reaches N)
  refine ⟨h1, ?_⟩
  simp only [sieveInit, List.length_nil, List.length_range', Nat.zero_add] at h2
  exact h2.trans (Nat.sub_le _ _)

end Sys2Proof.Machine
end

