-- ==== Sys2Proof/Tests/Slice0.lean ====
section
/-! SUPPORT. Small tests: the well-formedness smoke test, decoding of words written out from
spec/30_encoding.md R43, one or two single steps per command with the results of
spec/95_test_vectors.md, and for every statement with hypotheses a concrete state that meets them. -/

namespace Sys2Proof.Tests

open Sys2Proof.Machine

/-! ### Well-formedness -/

theorem test_wellFormed_refuses_unassigned_opcode :
    CommandWord.wellFormed ⟨0x17, false, 0⟩ = false := by decide

theorem test_wellFormed_refuses_reserved_bits :
    CommandWord.wellFormed ⟨0x02, false, 1⟩ = false := by decide

theorem test_wellFormed_refuses_u_on_egcd :
    CommandWord.wellFormed ⟨0x01, true, 0⟩ = false := by decide

theorem test_wellFormed_accepts_modmulU :
    CommandWord.wellFormed ⟨0x02, true, 0⟩ = true := by decide

/-! ### Decoding: words written out from R43, laid out as the table numbers bits -/

theorem test_decode_egcd : decodeTableWord 64 0b000000001 = some .egcd := by decide
theorem test_decode_modmul : decodeTableWord 64 0b000000010 = some .modmul := by decide
theorem test_decode_modmulU : decodeTableWord 64 0b100000010 = some .modmulU := by decide
theorem test_decode_modexp : decodeTableWord 64 0b000000011 = some .modexp := by decide
theorem test_decode_modexpU : decodeTableWord 64 0b100000011 = some .modexpU := by decide
theorem test_decode_isprime : decodeTableWord 64 0b000000100 = some .isprime := by decide
theorem test_decode_isprimeU : decodeTableWord 64 0b100000100 = some .isprimeU := by decide
theorem test_decode_sieveBuild : decodeTableWord 64 0b000010000 = some .sieveBuild := by decide
theorem test_decode_sieveSpf : decodeTableWord 64 0b000010001 = some .sieveSpf := by decide
theorem test_decode_sieveExp : decodeTableWord 64 0b000010010 = some .sieveExp := by decide
theorem test_decode_sievePhi : decodeTableWord 64 0b000010011 = some .sievePhi := by decide
theorem test_decode_sieveMu : decodeTableWord 64 0b000010100 = some .sieveMu := by decide
theorem test_decode_sievePrime : decodeTableWord 64 0b000010101 = some .sievePrime := by decide
theorem test_decode_sieveIsprime : decodeTableWord 64 0b000010110 = some .sieveIsprime := by decide

/-- The refusals of spec/95_test_vectors.md 2.7. -/
theorem test_decode_refusals :
    (decode 0x200 = .error .reservedOpcode ∧ decode 0x311 = .error .reservedBits) ∧
      (decode 0x111 = .error .uNotAllowed ∧ decode 0x8000000000000002 = .error .reservedBits) := by
  decide

/-! ### One step of each command, with the values of spec/95_test_vectors.md -/

/-- A state with the operands `a`, `b`, `m` and the word `w` accepted and running. -/
def running (a b m w : Word) : State :=
  { State.reset with latch := ⟨w, a, b, m⟩, status := ⟨true, false, false, false, false⟩ }

/-- The same with a table built to 30. -/
def runningBuilt (a w : Word) : State :=
  { running a 0 0 w with
    status := ⟨true, false, false, true, false⟩
    table := linearSieve 30
    sieveN := 30
    sieveCount := 10 }

/-- A field of the next state, if there is one. -/
def look {α : Type} (f : State → α) (o : Host.Outcome State Fault Refusal) : Option α :=
  match o with
  | .next t => some (f t)
  | .fault _ => none
  | .refused _ => none

/-- RES0 after the step. -/
def res0 (s : State) : Option Word := look (·.res0) (step s)

/-- The ERROR word after the step. -/
def errorWord (s : State) : Option Word := look (·.error.word) (step s)

theorem test_egcd_negative_b : look (fun t => (t.res0, t.res1, t.res2))
    (step (running 35 0xFFFFFFFFFFFFFFF1 0 1)) = some (5, 1, 2) := by decide

theorem test_egcd_gcd_two_pow_63 : look (fun t => (t.res0, t.res1, t.res2))
    (step (running 0x8000000000000000 0x8000000000000000 0 1)) =
      some (0x8000000000000000, 0, 0xFFFFFFFFFFFFFFFF) := by decide

theorem test_modmul_negative_x : res0 (running 0xFFFFFFFFFFFFFFF9 3 5 2) = some 4 := by decide

theorem test_modmul_negModulus_before_negExponent :
    errorWord (running 5 0xFFFFFFFFFFFFFFFF 0xFFFFFFFFFFFFFFFB 2) = some 0x20202 := by decide

theorem test_modmulU_near_top : res0 (running 0xFFFFFFFFFFFFFFFF 0xFFFFFFFFFFFFFFFF
    0xFFFFFFFFFFFFFFC5 0x102) = some 0xD24 := by decide +kernel

theorem test_modexp_odd_power_of_minus_one : res0 (running 0xFFFFFFFFFFFFFFFF 0x7FFFFFFFFFFFFFFF
    0x7FFFFFFFFFFFFFFF 3) = some 0x7FFFFFFFFFFFFFFE := by decide +kernel

theorem test_modexp_zero_modulus_first :
    errorWord (running 7 0xFFFFFFFFFFFFFFFF 0 3) = some 0x30101 := by decide

theorem test_modexpU_largest_exponent :
    res0 (running 7 0xFFFFFFFFFFFFFFFF 5 0x103) = some 3 := by decide +kernel

theorem test_isprime_at_threshold : res0 (running 4759123141 0 0 4) = some 0 := by decide +kernel

theorem test_isprime_signed_word : res0 (running 0xFFFFFFFFFFFFFFC5 0 0 4) = some 0 := by decide

theorem test_isprimeU_unsigned_word :
    res0 (running 0xFFFFFFFFFFFFFFC5 0 0 0x104) = some 1 := by decide +kernel

theorem test_sieveBuild_30 : look (fun t => (t.res0, t.sieveN, t.status.word, t.table.primes))
    (step (running 30 0 0 0x10)) = some (10, 30, 0xA, [2, 3, 5, 7, 11, 13, 17, 19, 23, 29]) := by
  decide +kernel

theorem test_sieveBuild_top_word :
    errorWord (running 0xFFFFFFFFFFFFFFFF 0 0 0x10) = some 0x100302 := by decide

theorem test_sieveSpf_25 : res0 (runningBuilt 25 0x11) = some 5 := by decide +kernel

theorem test_sieveSpf_unbuilt : errorWord (running 2 0 0 0x11) = some 0x110402 := by decide

theorem test_sieveExp_27 : res0 (runningBuilt 27 0x12) = some 9 := by decide +kernel

theorem test_sieveExp_18 : res0 (runningBuilt 18 0x12) = some 2 := by decide +kernel

theorem test_sievePhi_30 : res0 (runningBuilt 30 0x13) = some 8 := by decide +kernel

theorem test_sievePhi_index_read_unsigned :
    errorWord (runningBuilt 0xFFFFFFFFFFFFFFFF 0x13) = some 0x130502 := by decide

theorem test_sieveMu_30 : res0 (runningBuilt 30 0x14) = some 0xFFFFFFFFFFFFFFFF := by decide +kernel

theorem test_sievePrime_9 : res0 (runningBuilt 9 0x15) = some 29 := by decide +kernel

theorem test_sievePrime_10 : errorWord (runningBuilt 10 0x15) = some 0x150502 := by decide

theorem test_sieveIsprime_1 : res0 (runningBuilt 1 0x16) = some 0 := by decide +kernel

theorem test_sieveIsprime_29 : res0 (runningBuilt 29 0x16) = some 1 := by decide +kernel

/-! ### The bus (spec/95_test_vectors.md 2.9) -/

/-- A cycle that presents one access and no completion. -/
def accessCycle (a : Access) : Cycle := ⟨false, some a, false, false⟩

/-- A cycle that presents an access together with the completion. -/
def bothCycle (a : Access) : Cycle := ⟨false, some a, true, false⟩

theorem test_read_id : look (·.response)
    (step { State.reset with agenda := [accessCycle (.read 0 8)] }) =
      some (.data 0x4E584D3634070001) := by decide

/-- An access that starts below the window and reaches into it is judged outside (log 5). -/
theorem test_straddling_access_is_outside :
    (Access.read (-4) 8).inWindow = false ∧ (Access.read 0xFC 8).inWindow = true ∧
      (Access.read 0xFC 8).admitted = false := by decide

theorem test_narrow_read_is_refused : look (·.response)
    (step { State.reset with agenda := [accessCycle (.read 0x10 4)] }) = some .busError := by decide

theorem test_cmd_write_sets_busy : look (fun t => (t.status.word, t.latch.a))
    (step { State.reset with opa := 3, agenda := [accessCycle (.write 8 8 2)] }) =
      some (1, 3) := by decide

theorem test_dropped_write_sets_ovr : look (·.status.word)
    (step { running 3 4 5 2 with agenda := [accessCycle (.write 8 8 2)] }) = some 0x11 := by decide

theorem test_intr_write_3 : look (·.intr.word)
    (step { State.reset with
      intr := ⟨true, false⟩, agenda := [accessCycle (.write 0x20 8 3)] }) = some 2 := by decide

theorem test_completion_wins_over_w1c : look (·.intr.pend)
    (step { running 3 4 5 2 with agenda := [bothCycle (.write 0x20 8 1)] }) = some true := by decide

theorem test_completion_before_cmd_write : look (fun t => (t.res0, t.status.word))
    (step { running 3 4 5 2 with agenda := [bothCycle (.write 8 8 2)] }) = some (2, 1) := by decide

theorem test_reset_abandons_command : look (fun t => (t.status.word, t.intr.word, t.res0))
    (step { running 3 4 5 2 with agenda := [⟨true, none, true, false⟩] }) = some (0, 0, 0) := by
  decide

theorem test_fetched_word_runs :
    look (fun t => (t.error.word, t.status.word)) (step (State.reset.withFetchWord 64 0x11)) =
      some (0x110402, 6) := by decide

/-! ### For every statement with hypotheses, a state that meets them -/

theorem witness_DecodeInvertsEncodeExactly :
    Instr.egcd.wellFormed = true ∧ decode 0x104 = .ok .isprimeU := by decide

/-- All four clauses: 0x17 beside the last assigned opcode, bit 9 on a legal opcode, U on egcd, and
the two legal kinds. -/
theorem witness_IllegalWordsFailInPriorityOrder :
    ((running 0 0 0 0x17).status.busy = true ∧ ownCycle.reset = false ∧ ownCycle.access = none ∧
      ownCycle.completes = true) ∧
    (0x17 % 256 ∉ [0x01, 0x02, 0x03, 0x04, 0x10, 0x11, 0x12, 0x13, 0x14, 0x15, 0x16]) ∧
    ((running 0 0 0 0x216).latch.w.toNat / 512 ≠ 0 ∧
      (running 0 0 0 0x216).latch.w.toNat % 256 = 0x16) ∧
    ((running 0 0 0 0x101).latch.w.toNat / 256 % 2 = 1 ∧ 0x01 ∉ [0x02, 0x03, 0x04]) ∧
    ((running 0 0 0 0x16).latch.w.toNat / 256 % 2 = 0 ∧
      (running 0 0 0 0x104).latch.w.toNat % 256 ∈ [0x02, 0x03, 0x04]) := by decide

theorem witness_ByteLanesAreLittleEndian : 7 < 8 ∧ ([0, 1] : List Byte).length ≠ 8 := by decide

theorem witness_StepRunsTheLatchedCommand :
    (running 3 4 5 2).status.busy = true ∧ decode (running 3 4 5 2).latch.w = .ok .modmul ∧
      (running 3 4 5 2).agenda = [] ∧ ownCycle.reset = false ∧ ownCycle.access = none ∧
      ownCycle.completes = true := by decide

theorem witness_EgcdGivesTheCanonicalBezoutPair :
    (running 0 5 0 1).latch.a.toInt = 0 ∧ (running 5 0 0 1).latch.b.toInt = 0 ∧
      (running 0x8000000000000000 0xFFFFFFFFFFFFFFFF 0 1).latch.a.toInt ≠ 0 ∧
      (running 0x8000000000000000 0xFFFFFFFFFFFFFFFF 0 1).latch.b.toInt ≠ 0 := by decide

theorem witness_EgcdResultsFitTheirRegisters :
    (running 0x8000000000000000 0x8000000000000000 0 1).latch.a.toInt ≠ 0 ∧
      (running 0x8000000000000000 0x8000000000000000 0 1).latch.b.toInt ≠ 0 := by decide

/-- The clauses at their boundaries: m = 1 with y = 0, m = 0, m = −1, y = −1. -/
theorem witness_ModmulComputesTheResidueOrFails :
    (0 < (running 9 0 1 2).latch.m.toInt ∧ 0 ≤ (running 9 0 1 2).latch.b.toInt) ∧
      (running 9 0 0 2).latch.m.toInt = 0 ∧ (running 9 0 0xFFFFFFFFFFFFFFFF 2).latch.m.toInt < 0 ∧
      (0 < (running 9 0xFFFFFFFFFFFFFFFF 1 2).latch.m.toInt ∧
        (running 9 0xFFFFFFFFFFFFFFFF 1 2).latch.b.toInt < 0) := by decide

theorem witness_ModmulUComputesTheResidueOrFails :
    (running 9 9 1 0x102).latch.m.toNat ≠ 0 ∧ (running 9 9 0 0x102).latch.m.toNat = 0 := by decide

theorem witness_ModexpComputesThePowerOrFails :
    (0 < (running 9 0 1 3).latch.m.toInt ∧ 0 ≤ (running 9 0 1 3).latch.b.toInt) ∧
      (running 9 0 0 3).latch.m.toInt = 0 ∧ (running 9 0 0xFFFFFFFFFFFFFFFF 3).latch.m.toInt < 0 ∧
      (0 < (running 9 0xFFFFFFFFFFFFFFFF 1 3).latch.m.toInt ∧
        (running 9 0xFFFFFFFFFFFFFFFF 1 3).latch.b.toInt < 0) := by decide

theorem witness_ModexpUComputesThePowerOrFails :
    (running 9 9 1 0x103).latch.m.toNat ≠ 0 ∧ (running 9 9 0 0x103).latch.m.toNat = 0 := by decide

theorem witness_DecomposeSplitsOffTheTwos : 3 ≤ 2 ^ 63 + 1 ∧ 2 ^ 63 + 1 < 2 ^ 64 := by decide

/-- 2 is accepted and 0 is not, under both readings. -/
theorem witness_IsprimeIsTheFixedWitnessTest :
    ((running 2 0 0 4).latch.a.toInt = 2 ∧ (running 2 0 0 4).latch.a.toNat = 2) ∧
      ((running 0 0 0 4).latch.a.toInt ≠ 2 ∧ ¬ 2 < (running 0 0 0 4).latch.a.toInt) := by decide

theorem witness_PrimesAreNeverRejected :
    Nat.Prime (running 61 0 0 4).latch.a.toNat ∧ (running 61 0 0 4).latch.a.toNat < 2 ^ 63 := by
  constructor
  · change Nat.Prime 61
    norm_num
  · decide

theorem witness_SmallAndEvenNumbersAreRejected :
    (running 1 0 0 4).latch.a.toInt ≤ 1 ∧
      (2 < (running 4 0 0 4).latch.a.toInt ∧ (running 4 0 0 4).latch.a.toInt % 2 = 0) ∧
      (running 1 0 0 4).latch.a.toNat ≤ 1 ∧
      (2 < (running 4 0 0 4).latch.a.toNat ∧ (running 4 0 0 4).latch.a.toNat % 2 = 0) := by decide

/-- The bounds 1 and 30 are accepted by every SIEVE_NMAX, 0 and 2³² by none. -/
theorem witness_SieveBuildInstallsTheWholeTable :
    (1 ≤ (running 1 0 0 0x10).latch.a.toNat ∧
      (running 30 0 0 0x10).latch.a.toNat ≤ Config.sieveNMax) ∧
    ((running 0 0 0 0x10).latch.a.toNat = 0 ∧
      Config.sieveNMax < (running 0x100000000 0 0 0x10).latch.a.toNat) :=
  ⟨⟨by decide, thirty_le_sieveNMax⟩, by decide, sieveNMax_lt⟩

theorem witness_SieveBuildCountsThePrimes :
    1 ≤ (running 30 0 0 0x10).latch.a.toNat ∧
      (running 30 0 0 0x10).latch.a.toNat ≤ Config.sieveNMax :=
  ⟨by decide, thirty_le_sieveNMax⟩

theorem witness_LinearSieveFindsThePrimes : 1 ≤ 1 ∧ 0 ≤ 1 := by decide

theorem witness_LinearSieveTabulatesArithmeticFunctions : 1 ≤ 30 ∧ 30 ≤ 30 := by decide

theorem witness_AccessorsReadOneEntry :
    (runningBuilt 30 0x11).status.svalid = true ∧
      (runningBuilt 30 0x11).latch.a.toNat ≤ (runningBuilt 30 0x11).sieveN.toNat ∧
      (runningBuilt 30 0x11).table.spf[30]? = some 2 ∧
      (runningBuilt 30 0x11).table.expt[30]? = some 2 ∧
      (runningBuilt 30 0x11).table.phi[30]? = some 8 ∧
      (runningBuilt 30 0x11).table.mu[30]? = some (-1) ∧
      (runningBuilt 9 0x15).latch.a.toNat < (runningBuilt 9 0x15).sieveCount.toNat ∧
      (runningBuilt 9 0x15).table.primes[9]? = some 29 := by decide +kernel

theorem witness_AccessorsCheckBeforeReading :
    (running 0 0 0 0x11).status.svalid = false ∧
      ((runningBuilt 31 0x11).status.svalid = true ∧
        (runningBuilt 31 0x11).sieveN.toNat < (runningBuilt 31 0x11).latch.a.toNat) ∧
      (runningBuilt 10 0x15).sieveCount.toNat ≤ (runningBuilt 10 0x15).latch.a.toNat ∧
      (runningBuilt 30 0x11).latch.a.toNat ≤ (runningBuilt 30 0x11).sieveN.toNat ∧
      (runningBuilt 9 0x15).latch.a.toNat < (runningBuilt 9 0x15).sieveCount.toNat := by decide

theorem linearSieve_30_count : (linearSieve 30).primes.length = 10 := by decide +kernel

theorem linearSieve_30_bound : linearSieve 30 = linearSieve (30 : Word).toNat :=
  congrArg linearSieve (by decide)

theorem primeCounting_30 : 9 < Nat.primeCounting (30 : Word).toNat := by decide +kernel

theorem runningBuilt_table (a w : Word) : (runningBuilt a w).table = linearSieve 30 := by
  simp only [runningBuilt]

/-- A running command over a table built to 30 meets the invariant. -/
theorem runningBuilt_inv (a w : Word) : (runningBuilt a w).Inv := by
  constructor
  · intro _; rfl
  · intro h; exact Bool.noConfusion h
  · intro h; exact Bool.noConfusion h
  · intro _; rfl
  · intro h; exact Bool.noConfusion h
  · intro h; exact Bool.noConfusion h
  · intro _
    have h : (30 : Word).toNat = 30 := by decide
    have h' : (runningBuilt a w).sieveN = 30 := rfl
    rw [h', h]
    exact ⟨by decide, thirty_le_sieveNMax⟩
  · intro _
    have h' : (runningBuilt a w).sieveN = 30 := rfl
    rw [runningBuilt_table, h']
    exact linearSieve_30_bound
  · intro _
    have h : (10 : Word).toNat = 10 := by decide
    have h' : (runningBuilt a w).sieveCount = 10 := rfl
    rw [h', runningBuilt_table, h, linearSieve_30_count]

theorem witness_AccessorsGiveTheArithmeticFunctions :
    (runningBuilt 30 0x11).Inv ∧ (runningBuilt 30 0x11).status.svalid = true ∧
      (runningBuilt 30 0x11).latch.a.toNat ≤ (runningBuilt 30 0x11).sieveN.toNat ∧
      (runningBuilt 9 0x15).latch.a.toNat < Nat.primeCounting (runningBuilt 9 0x15).sieveN.toNat :=
  ⟨runningBuilt_inv _ _, rfl, by decide, primeCounting_30⟩

theorem witness_FailedCommandsChangeOnlyTheRecord :
    (∃ t, exec .modmul (running 5 6 0 2) = .next t ∧ (running 5 6 0 2).status.err = false ∧
      t.status.err = true) ∧
    ∃ t, execute (running 0 0 0 0) = .next t ∧ (running 0 0 0 0).status.err = false ∧
      t.status.err = true := ⟨⟨_, rfl, rfl, rfl⟩, ⟨_, rfl, rfl, rfl⟩⟩

theorem witness_EachCommandHasItsOwnErrors :
    ∃ t, exec .sieveSpf (running 5 6 0 0x11) = .next t ∧
      (running 5 6 0 0x11).status.err = false ∧ t.status.err = true := ⟨_, rfl, rfl, rfl⟩

theorem witness_CommandsKeepTheirFrame :
    ∃ t, exec .modmul (running 3 4 5 2) = .next t ∧ Instr.modmul ≠ .egcd ∧
      Instr.modmul ≠ .sieveBuild := ⟨_, rfl, by decide, by decide⟩

theorem witness_IdleCmdWriteIsAccepted :
    (accessCycle (.write 0x08 8 2)).reset = false ∧
      (accessCycle (.write 0x08 8 2)).access = some (.write 0x08 8 2) ∧
      ({ State.reset with agenda := [accessCycle (.write 0x08 8 2)] } : State).status.busy =
        false := by decide

theorem witness_BusyCmdWriteIsDropped :
    ((accessCycle (.write 0x08 8 2)).completes = false ∧
      ({ running 3 4 5 2 with agenda := [accessCycle (.write 0x08 8 2)] } : State).status.busy =
        true) ∧
    ∃ s t : State, step s = .next t ∧ s.status.ovr = true ∧ t.status.ovr = false :=
  ⟨by decide, { State.reset with
    status := ⟨false, true, false, false, true⟩, agenda := [accessCycle (.write 8 8 2)] }, _, rfl,
    rfl, rfl⟩

theorem witness_OperandAndInterruptWritesTakeEffectAtOnce :
    ∀ o ∈ [0x20, 0x28, 0x30, (0x38 : Int)],
      (accessCycle (.write o 8 7)).access = some (.write o 8 7) ∧
        (accessCycle (.write o 8 7)).reset = false ∧
        (accessCycle (.write o 8 7)).completes = false := by decide

theorem witness_ReadOnlyAndReservedWritesAreIgnored :
    (admittedOffset 0 ∧ (0 : Int) ∉ [(0x08 : Int), 0x20, 0x28, 0x30, 0x38]) ∧
      admittedOffset 0xF8 ∧ (accessCycle (.write 0xF8 8 7)).completes = false := by
  unfold admittedOffset
  decide

theorem witness_ReadsReturnTheRegisterAndChangeNothing :
    ∀ o ∈ [0x00, 0x08, 0x10, 0x18, 0x20, 0x28, 0x30, 0x38, 0x40, 0x48, 0x50, 0x58, 0x60, 0x68, 0x70,
        (0xF8 : Int)],
      admittedOffset o ∧ (accessCycle (.read o 8)).access = some (.read o 8) ∧
        (accessCycle (.read o 8)).completes = false := by
  unfold admittedOffset
  decide

theorem witness_RefusedAccessChangesNoRegister :
    (Access.read 0xFF 8).offset ≤ 0xFF ∧ (Access.read 0xFF 8).offset % 8 ≠ 0 ∧
      (Access.write 0 16 5).size ≠ 8 ∧ 0 ≤ (Access.write 0 16 5).offset := by decide

theorem witness_StepStopsOnlyOutsideTheWindow :
    (∃ r, step { State.reset with agenda := [accessCycle (.read 0x100 8)] } = .fault r) ∧
      ∃ r, step { State.reset with agenda := [accessCycle (.read (-1) 8)] } = .fault r :=
  ⟨⟨_, rfl⟩, ⟨_, rfl⟩⟩

theorem witness_SimultaneousEventsAreOrdered :
    ((bothCycle (.write 0x20 8 1)).reset = false ∧ (bothCycle (.write 0x20 8 1)).completes = true ∧
      (running 3 4 5 2).status.busy = true) ∧
    (bothCycle (.write 0x20 8 1)).access = some (.write 0x20 8 1) ∧
    (bothCycle (.write 0x08 8 2)).access = some (.write 0x08 8 2) ∧
    (⟨true, none, true, false⟩ : Cycle).reset = true := by decide

theorem witness_ResetCycleGivesTheResetValues :
    ({ running 3 4 5 2 with agenda := [⟨true, none, true, false⟩] } : State).nextCycle.reset =
      true := by decide

theorem witness_PendIsClearedOnlyByTheHostOrReset :
    (∃ s t : State, step s = .next t ∧ s.intr.pend = true ∧ t.intr.pend = false) ∧
      ∃ s t : State, step s = .next t ∧ s.intr.pend = false ∧ t.intr.pend = true :=
  ⟨⟨{ State.reset with intr := ⟨true, true⟩, agenda := [accessCycle (.write 0x20 8 1)] }, _, rfl,
    rfl, rfl⟩, ⟨running 3 4 5 2, _, rfl, rfl, rfl⟩⟩

theorem witness_ResultsChangeOnlyAtCompletion :
    (∃ s t : State, step s = .next t ∧ (t.res0, t.res1, t.res2) ≠ (s.res0, s.res1, s.res2)) ∧
      ∃ s t : State, step s = .next t ∧ (t.table, t.sieveN, t.sieveCount, t.status.svalid) ≠
        (s.table, s.sieveN, s.sieveCount, s.status.svalid) := by
  refine ⟨⟨running 3 4 5 2, _, rfl, by decide⟩, ⟨running 1 0 0 0x10, _, rfl, ?_⟩⟩
  intro h
  have h4 := congrArg (fun q => q.2.2.2) h
  exact absurd h4 (by decide)

theorem witness_OperandsChangeOnlyByHostWrites :
    ∀ o ∈ [0x28, 0x30, 0x38, (0x20 : Int)], ∃ t,
      step { State.reset with agenda := [accessCycle (.write o 8 2)] } = .next t ∧
        (t.opa ≠ 0 ∨ t.opb ≠ 0 ∨ t.opm ≠ 0 ∨ t.intr.ie ≠ false) := by
  intro o ho
  simp only [List.mem_cons, List.not_mem_nil, or_false] at ho
  rcases ho with rfl | rfl | rfl | rfl <;> exact ⟨_, rfl, by decide⟩

theorem witness_TableStaysValidUntilReset :
    ∃ t, step (runningBuilt 30 0x11) = .next t ∧ (runningBuilt 30 0x11).status.svalid = true ∧
      (runningBuilt 30 0x11).nextCycle.reset = false := by
  obtain ⟨t, h, _⟩ := completionStep_next (runningBuilt 30 0x11)
  exact ⟨t, h, rfl, rfl⟩

/-- A waiting cycle with an operand write. -/
theorem waiting_operand_write : (accessCycle (.write 0x28 8 9)).waiting :=
  ⟨⟨rfl, fun a h => by cases h; decide⟩, rfl⟩

theorem witness_NothingIsVisibleBeforeCompletion :
    ∃ t, step { running 3 4 5 2 with agenda := [accessCycle (.write 0x28 8 9)] } = .next t ∧
      (running 3 4 5 2).status.busy = true ∧ (accessCycle (.write 0x28 8 9)).waiting :=
  ⟨_, rfl, rfl, waiting_operand_write⟩

theorem witness_EveryStepKeepsTheInvariant :
    ∃ t, (runningBuilt 30 0x11).Inv ∧ step (runningBuilt 30 0x11) = .next t := by
  obtain ⟨t, h, _⟩ := completionStep_next (runningBuilt 30 0x11)
  exact ⟨t, runningBuilt_inv _ _, h⟩

/-- Two states that agree on the latch and the sieve state and differ elsewhere, and an illegal word. -/
theorem witness_OutcomeDependsOnlyOnLatchAndTable :
    (let s₁ := running 3 4 5 2
     let s₂ : State := { s₁ with
       opa := 9, res0 := 8, error := ⟨1, 1, 2⟩, status := ⟨true, true, true, false, true⟩ }
     s₁.latch = s₂.latch ∧ s₁.table = s₂.table ∧ s₁.sieveN = s₂.sieveN ∧
       s₁.sieveCount = s₂.sieveCount ∧ s₁.status.svalid = s₂.status.svalid) ∧
    decode (running 0 0 0 0).latch.w = .error .reservedOpcode := by decide

/-- A legal and an illegal word, each waiting one cycle with an operand write. -/
theorem witness_LatencyDoesNotChangeTheOutcome :
    (∀ w ∈ [(2 : Word), 0], ∃ u, Sys2Proof.core.run 1
        { running 3 4 5 w with agenda := [accessCycle (.write 0x28 8 9)] } = .next u ∧
      (running 3 4 5 w).status.busy = true) ∧
    (accessCycle (.write 0x28 8 9)).waiting := by
  refine ⟨fun w hw => ?_, waiting_operand_write⟩
  simp only [List.mem_cons, List.not_mem_nil, or_false] at hw
  rcases hw with rfl | rfl <;> exact ⟨_, rfl, rfl⟩

/-- A cycle with a CMD write, and one that presents none. -/
theorem witness_EveryAcceptedCommandCompletes :
    (running 3 4 5 2).status.busy = true ∧ (bothCycle (.write 0x08 8 2)).regular ∧
      (accessCycle (.write 0x28 8 9)).startsNothing :=
  ⟨rfl, ⟨rfl, fun a h => by cases h; decide⟩, waiting_operand_write.1, fun a h => by cases h; decide⟩

end Sys2Proof.Tests
end

section
/-! A CMD write in a bus cycle (spec/10_state.md R25, spec/60_exceptions.md R86 (2)): a completion
presented with it comes first, and an idle block has none to perform. -/

namespace Sys2Proof.Machine

/-- With a cycle on the agenda, a step runs that cycle and leaves the rest. -/
theorem step_of_agenda_cons {s : State} {c : Cycle} {rest : List Cycle}
    (h : s.agenda = c :: rest) : step s = runCycle c { s with agenda := rest } := by
  rw [step_eq_runCycle, State.nextCycle, h]
  rfl

/-- An idle block has nothing to complete (R24). -/
theorem completionStep_of_idle {s : State} (h : s.status.busy = false) :
    completionStep s = .next s := by
  simp [completionStep, h]

/-- A CMD write is an admitted access to the window; what it does is `writeCmd` (R11). -/
theorem hostAccess_cmdWrite (w : Word) (s : State) :
    hostAccess (.write 0x08 8 w) s = .next { writeCmd w s with response := .written } := rfl

/-- A CMD write while idle is an accept (R11, R25). -/
theorem writeCmd_of_idle {s : State} (h : s.status.busy = false) (w : Word) :
    writeCmd w s = accept w s := by
  simp [writeCmd, h]

/-- Without reset, a cycle with a CMD write is its completion, if any, and then the write (R86 (2)). -/
theorem runCycle_cmdWrite {c : Cycle} {w : Word} (hr : c.reset = false)
    (ha : c.access = some (.write 0x08 8 w)) (s : State) :
    runCycle c s =
      andThen (if c.completes then completionStep s else .next s)
        (hostAccess (.write 0x08 8 w)) := by
  have ho : completionOrderedFirst c (.write 0x08 8 w) = true := rfl
  cases hc : c.completes <;> simp [runCycle, hr, ha, hc, ho, andThen]

/-- In an idle block the cycle of a CMD write accepts the word, whether or not the cycle was marked
for a completion. -/
theorem runCycle_cmdWrite_of_idle {c : Cycle} {w : Word} {s : State} (hr : c.reset = false)
    (ha : c.access = some (.write 0x08 8 w)) (hb : s.status.busy = false) :
    runCycle c s = .next { accept w s with response := .written } := by
  rw [runCycle_cmdWrite hr ha, completionStep_of_idle hb, ite_self, andThen,
    hostAccess_cmdWrite, writeCmd_of_idle hb]

/-- Settles O29: the step is the agenda's cycle, which accepts the word in an idle block. -/
theorem idleCmdWriteIsAccepted : Obligations.IdleCmdWriteIsAccepted := by
  intro s c rest w hs hr ha hb
  have hcycle : runCycle c { s with agenda := rest } =
      .next { accept w { s with agenda := rest } with response := .written } :=
    runCycle_cmdWrite_of_idle hr ha hb
  rw [step_of_agenda_cons hs, hcycle]
  rfl

end Sys2Proof.Machine
end

section
/-! The checks of Decode in their order (spec/30_encoding.md R44): the decoder, written from the
opcode map, against the checks on the fields, written from the opcode lists; the fields as parts of
the word's number (R40); and the completion step of a word that fails a check or passes them all. -/

namespace Sys2Proof

/-- The opcode map has a row with U = 0 exactly for the assigned opcodes (R43, R44). -/
theorem opcodeMap_false_isSome_iff (opc : BitVec 8) :
    (opcodeMap opc false).isSome = true ↔ opc ∈ assignedOpcodes := by
  simp only [assignedOpcodes, List.mem_cons, List.not_mem_nil, ← BitVec.toNat_inj]
  unfold opcodeMap
  split <;> simp_all

/-- The opcode map has a row with U = 1 exactly for the opcodes that define U (R42, R43). -/
theorem opcodeMap_true_isSome_iff (opc : BitVec 8) :
    (opcodeMap opc true).isSome = true ↔ opc ∈ unsignedOpcodes := by
  simp only [unsignedOpcodes, List.mem_cons, List.not_mem_nil, ← BitVec.toNat_inj]
  unfold opcodeMap
  split <;> simp_all

/-! ### The decoder on the fields -/

/-- First check: an unassigned opcode. -/
theorem decodeFields_of_not_opcodeAssigned {c : CommandWord} (h : c.opcodeAssigned = false) :
    decodeFields c = .error .reservedOpcode := by
  have hnone : opcodeMap c.opc false = none := by
    simpa [CommandWord.opcodeAssigned, ← opcodeMap_false_isSome_iff] using h
  simp [decodeFields, hnone]

/-- An assigned opcode passes the first check: its row with U = 0 is there. -/
theorem exists_opcodeMap_of_opcodeAssigned {c : CommandWord} (h : c.opcodeAssigned = true) :
    ∃ i, opcodeMap c.opc false = some i := by
  simpa [CommandWord.opcodeAssigned, ← opcodeMap_false_isSome_iff,
    Option.isSome_iff_exists] using h

/-- Second check: a nonzero reserved field under an assigned opcode. -/
theorem decodeFields_of_not_reservedClear {c : CommandWord} (ha : c.opcodeAssigned = true)
    (h : c.reservedClear = false) : decodeFields c = .error .reservedBits := by
  obtain ⟨i, hi⟩ := exists_opcodeMap_of_opcodeAssigned ha
  have hrsv : c.rsv ≠ 0 := by simpa [CommandWord.reservedClear] using h
  simp only [decodeFields, hi, if_pos hrsv]

/-- Third check: U = 1 where the opcode does not define it, once the first two have passed. -/
theorem decodeFields_of_not_uAllowed {c : CommandWord} (ha : c.opcodeAssigned = true)
    (hr : c.reservedClear = true) (h : c.uAllowed = false) :
    decodeFields c = .error .uNotAllowed := by
  obtain ⟨i, hi⟩ := exists_opcodeMap_of_opcodeAssigned ha
  have hrsv : c.rsv = 0 := by simpa [CommandWord.reservedClear] using hr
  have hu : c.u = true ∧ opcodeMap c.opc true = none := by
    simpa [CommandWord.uAllowed, ← opcodeMap_true_isSome_iff] using h
  simp [decodeFields, hi, hrsv, hu]

/-- A word that passes all three checks names a command. -/
theorem decodeFields_of_wellFormed {c : CommandWord} (h : c.wellFormed = true) :
    ∃ i, decodeFields c = .ok i := by
  obtain ⟨⟨ha, hr⟩, hu⟩ : (c.opcodeAssigned = true ∧ c.reservedClear = true) ∧
      c.uAllowed = true := by simpa [CommandWord.wellFormed] using h
  obtain ⟨i, hi⟩ := exists_opcodeMap_of_opcodeAssigned ha
  have hrsv : c.rsv = 0 := by simpa [CommandWord.reservedClear] using hr
  cases hcu : c.u with
  | false => exact ⟨i, by simp [decodeFields, hi, hrsv, hcu]⟩
  | true =>
    obtain ⟨j, hj⟩ : ∃ j, opcodeMap c.opc true = some j := by
      simpa [CommandWord.uAllowed, hcu, ← opcodeMap_true_isSome_iff,
        Option.isSome_iff_exists] using hu
    exact ⟨j, by simp [decodeFields, hi, hrsv, hcu, hj]⟩

/-! ### The checks as facts about the word's number -/

/-- OPC is the low byte of the word (R40). -/
@[simp] theorem splitWord_opc_toNat (w : Word) : (splitWord w).opc.toNat = w.toNat % 256 := by
  simp [splitWord]

/-- U is bit 8 of the word (R40). -/
@[simp] theorem splitWord_u (w : Word) : (splitWord w).u = decide (w.toNat / 256 % 2 = 1) := by
  simp [splitWord, BitVec.getLsbD, Nat.testBit_eq_decide_div_mod_eq]

/-- RSV is what stands above bit 8 of the word (R40). -/
@[simp] theorem splitWord_rsv_toNat (w : Word) : (splitWord w).rsv.toNat = w.toNat / 512 := by
  have hw : w.toNat / 512 < 2 ^ 55 := by have := w.isLt; omega
  simpa [splitWord, Nat.shiftRight_eq_div_pow] using hw

theorem splitWord_opcodeAssigned_iff (w : Word) :
    (splitWord w).opcodeAssigned = true ↔ w.toNat % 256 ∈
      [0x01, 0x02, 0x03, 0x04, 0x10, 0x11, 0x12, 0x13, 0x14, 0x15, 0x16] := by
  simp [CommandWord.opcodeAssigned, assignedOpcodes, ← BitVec.toNat_inj]

theorem splitWord_reservedClear_iff (w : Word) :
    (splitWord w).reservedClear = true ↔ w.toNat / 512 = 0 := by
  simp [CommandWord.reservedClear, ← BitVec.toNat_inj]

theorem splitWord_uAllowed_iff (w : Word) :
    (splitWord w).uAllowed = true ↔
      w.toNat / 256 % 2 = 0 ∨ w.toNat % 256 ∈ [0x02, 0x03, 0x04] := by
  simp [CommandWord.uAllowed, unsignedOpcodes, ← BitVec.toNat_inj]

end Sys2Proof

namespace Sys2Proof.Machine

/-- In a cycle without reset or access in which a running command completes, the step is the
completion of the latched word (R26). -/
theorem step_of_completing_cycle {s : State} {c : Cycle} {rest : List Cycle}
    (hb : s.status.busy = true) (hs : s.agenda = c :: rest) (hr : c.reset = false)
    (ha : c.access = none) (hc : c.completes = true) :
    step s = execute { s with agenda := rest } := by
  rw [step_of_agenda_cons hs]
  simp [runCycle, hr, ha, hc, completionStep, hb]

/-- An illegal word completes with CAUSE 3 and the DETAIL of the check it fails (R44, R80). -/
theorem execute_of_decode_error {s : State} {why : DecodeRefusal}
    (h : decode s.latch.w = .error why) :
    execute s = .next (s.afterError 3 (CommandError.illegal why).detail) := by
  rw [execute, h]
  exact congrArg _ (completeError_eq_afterError _ s)

/-- A legal word runs the command it names (R44). -/
theorem execute_of_decode_ok {s : State} {i : Instr} (h : decode s.latch.w = .ok i) :
    execute s = exec i s := by
  rw [execute, h]

/-- Settles O4: each check, as a fact about the word's number, fixes what the latched word decodes
to, and that fixes the completion. -/
theorem illegalWordsFailInPriorityOrder : Obligations.IllegalWordsFailInPriorityOrder := by
  intro s c rest hb hs hr ha hc t opc reserved u assigned
  have hstep : step s = execute t := step_of_completing_cycle hb hs hr ha hc
  have hopc := splitWord_opcodeAssigned_iff s.latch.w
  have hrsv := splitWord_reservedClear_iff s.latch.w
  have hu := splitWord_uAllowed_iff s.latch.w
  rw [hstep]
  refine ⟨fun h1 => ?reservedOpcode, fun h1 h2 => ?reservedBits, fun h1 h2 h3 h4 => ?uNotAllowed,
    fun h1 h2 h3 => ?legal⟩
  case reservedOpcode =>
    have hd : decode t.latch.w = .error .reservedOpcode :=
      decodeFields_of_not_opcodeAssigned (Bool.eq_false_iff.mpr (mt hopc.mp h1))
    exact execute_of_decode_error hd
  case reservedBits =>
    have hd : decode t.latch.w = .error .reservedBits :=
      decodeFields_of_not_reservedClear (hopc.mpr h1) (Bool.eq_false_iff.mpr (mt hrsv.mp h2))
    exact execute_of_decode_error hd
  case uNotAllowed =>
    have hnot : ¬ (u = 0 ∨ opc ∈ [0x02, 0x03, 0x04]) := by
      rintro (h0 | hmem)
      · omega
      · exact h4 hmem
    have hd : decode t.latch.w = .error .uNotAllowed :=
      decodeFields_of_not_uAllowed (hopc.mpr h1) (hrsv.mpr h2)
        (Bool.eq_false_iff.mpr (mt hu.mp hnot))
    exact execute_of_decode_error hd
  case legal =>
    have hwf : (splitWord t.latch.w).wellFormed = true := by
      simp [CommandWord.wellFormed, t, hopc.mpr h1, hrsv.mpr h2, hu.mpr h3]
    obtain ⟨i, hi⟩ := decodeFields_of_wellFormed hwf
    exact ⟨i, hi, execute_of_decode_ok hi⟩

end Sys2Proof.Machine
end

section
/-! The canonical Bézout pair (spec/40_extended_euclid.md R50, R51): Canon sends every solution of
the identity into the range, since `|b|/gcd` is a period of the solutions' first coefficient. -/

namespace Sys2Proof.Machine

/-- The model's sign is Mathlib's (R7). -/
theorem sgn_eq_sign (a : Int) : sgn a = a.sign := by
  rcases lt_trichotomy a 0 with h | rfl | h
  · simp [sgn, h, Int.sign_eq_neg_one_of_neg h]
  · rfl
  · simp [sgn, h.not_gt, h.ne', Int.sign_eq_one_of_pos h]

/-- A number times its sign is its absolute value (R7). -/
theorem mul_sgn_self (a : Int) : a * sgn a = a.natAbs := by
  rw [sgn_eq_sign, Int.mul_sign_self]

/-- What R50 and R51 ask of `(coeffA, coeffB)`: the signed identity, and coeffA in `[0, |b|/gcd)`. -/
structure CanonicalBezout (a b cA cB : Int) : Prop where
  nonneg : 0 ≤ cA
  lt : cA < (b.natAbs / Int.gcd a b : Nat)
  identity : a * cA + b * cB = Int.gcd a b

/-- Moving coeffA by `|b|/gcd` moves `a·coeffA` by a multiple of `b` (R50). -/
theorem dvd_mul_natAbs_div_gcd (a b : Int) : b ∣ a * (b.natAbs / Int.gcd a b : Nat) := by
  obtain ⟨k, hk⟩ := Int.gcd_dvd_left a b
  have hg : (Int.gcd a b : Int) * (b.natAbs / Int.gcd a b : Nat) = b.natAbs :=
    mod_cast Nat.mul_div_cancel' (Nat.gcd_dvd_right a.natAbs b.natAbs)
  have hmul : a * (b.natAbs / Int.gcd a b : Nat) = b.natAbs * k := by
    calc a * (b.natAbs / Int.gcd a b : Nat)
        = (Int.gcd a b * k) * (b.natAbs / Int.gcd a b : Nat) := by rw [← hk]
      _ = (Int.gcd a b * (b.natAbs / Int.gcd a b : Nat)) * k := by ring
      _ = b.natAbs * k := by rw [hg]
  rw [hmul]
  exact Dvd.dvd.mul_right Int.dvd_natAbs_self k

/-- Canon's division is exact: reducing coeffA keeps `gcd − a·coeffA` a multiple of `b` (R50). -/
theorem dvd_gcd_sub_mul_emod {a b x y : Int} (h : a * x + b * y = Int.gcd a b) :
    b ∣ Int.gcd a b - a * (x % (b.natAbs / Int.gcd a b : Nat)) := by
  have hsplit : Int.gcd a b - a * (x % (b.natAbs / Int.gcd a b : Nat)) =
      b * y + a * (b.natAbs / Int.gcd a b : Nat) * (x / (b.natAbs / Int.gcd a b : Nat)) := by
    rw [Int.emod_def, ← h]
    ring
  rw [hsplit]
  exact dvd_add (dvd_mul_right b y) (Dvd.dvd.mul_right (dvd_mul_natAbs_div_gcd a b) _)

/-- Canon turns the first coefficient of any Bézout pair into the canonical pair (R50). -/
theorem canon_canonicalBezout {a b x y : Int} (hb : b ≠ 0) (h : a * x + b * y = Int.gcd a b) :
    CanonicalBezout a b (canon a b (Int.gcd a b) x).1 (canon a b (Int.gcd a b) x).2 := by
  have hpos : (0 : Int) < (b.natAbs / Int.gcd a b : Nat) :=
    mod_cast Nat.div_gcd_pos_of_pos_right a.natAbs (Int.natAbs_pos.mpr hb)
  refine ⟨Int.emod_nonneg x hpos.ne', Int.emod_lt_of_pos x hpos, ?identity⟩
  case identity =>
    simp only [canon]
    rw [Int.mul_ediv_cancel' (dvd_gcd_sub_mul_emod h)]
    ring

/-- The loop's pair for the absolute values, with the operands' signs, solves the signed identity
(R51). -/
theorem egcdRaw_signed_identity (a b : Int) :
    a * (sgn a * (egcdRaw a.natAbs b.natAbs).2.1) +
      b * (sgn b * (egcdRaw a.natAbs b.natAbs).2.2) = Int.gcd a b := by
  rw [← mul_assoc, ← mul_assoc, mul_sgn_self, mul_sgn_self]
  exact (egcdRaw_spec a.natAbs b.natAbs).2

/-- The fallback: a zero input gives `(0, 0, 0)` (R51). -/
theorem bezout_of_zero {a b : Int} (h : a = 0 ∨ b = 0) : bezout a b = (0, 0, 0) := if_pos h

/-- Nonzero inputs give the gcd and Canon's pair (R51). -/
theorem bezout_of_ne_zero {a b : Int} (ha : a ≠ 0) (hb : b ≠ 0) :
    bezout a b = ((Int.gcd a b : Int),
      canon a b (Int.gcd a b) (sgn a * (egcdRaw a.natAbs b.natAbs).2.1)) := by
  have hgcd : (egcdRaw a.natAbs b.natAbs).1 = Int.gcd a b := (egcdRaw_spec a.natAbs b.natAbs).1
  simp [bezout, ha, hb, hgcd]

/-- The BezoutResult of nonzero inputs is the gcd with the canonical pair (R51). -/
theorem exists_bezout_eq_canonicalBezout {a b : Int} (ha : a ≠ 0) (hb : b ≠ 0) :
    ∃ cA cB, CanonicalBezout a b cA cB ∧ bezout a b = ((Int.gcd a b : Int), cA, cB) :=
  ⟨_, _, canon_canonicalBezout hb (egcdRaw_signed_identity a b), bezout_of_ne_zero ha hb⟩

/-- What the completion of `egcd` runs. -/
theorem exec_egcd (s : State) : exec .egcd s = execEgcd s := rfl

/-- `egcd` writes the BezoutResult of the signed operands to the three result registers and
completes (R51). -/
theorem exec_egcd_of_bezout_eq {s : State} {g cA cB : Int}
    (h : bezout s.latch.a.toInt s.latch.b.toInt = (g, cA, cB)) :
    exec .egcd s = .next ({ s with
      res0 := BitVec.ofInt 64 g
      res1 := BitVec.ofInt 64 cA
      res2 := BitVec.ofInt 64 cB } : State).afterSuccess := by
  simp only [exec_egcd, execEgcd, sint64, h]
  rfl

/-- Settles O8: a zero operand takes the fallback; otherwise the loop's signed pair is a solution,
and Canon makes it the canonical one. -/
theorem egcdGivesTheCanonicalBezoutPair : Obligations.EgcdGivesTheCanonicalBezoutPair := by
  refine ⟨by decide, fun s => ⟨fun hzero => ?fallback, fun ha hb => ?nonzero⟩⟩
  case fallback => exact exec_egcd_of_bezout_eq (bezout_of_zero hzero)
  case nonzero =>
    obtain ⟨cA, cB, hpair, hres⟩ := exists_bezout_eq_canonicalBezout ha hb
    refine ⟨cA, cB, hpair.nonneg, hpair.lt, hpair.identity, ?_⟩
    rw [exec_egcd_of_bezout_eq hres, BitVec.ofInt_natCast]

end Sys2Proof.Machine
end

section
/-! The modular commands (spec/41_modular.md R54 to R60): the exact integer each loop leaves in RES0,
and the completion of each command from what the operand checks answer, for either U bit. -/

namespace Sys2Proof.Machine

/-! ### The residues over the integers -/

/-- Either reading of a word stays below 2⁶⁴, so the loops see all bits of `y` (R7). -/
theorem readOperand_lt (u : Bool) (w : Word) : readOperand u w < 2 ^ 64 := by
  cases u with
  | false =>
    have h : w.toInt < 2 ^ 63 := BitVec.toInt_lt
    rw [readOperand_signed]
    omega
  | true =>
    rw [readOperand_unsigned]
    exact_mod_cast w.isLt

/-- MulMod on the reduced first operand gives the residue of the integers' product (R54, R56). -/
theorem natCast_mulMod_emod {x y m : Int} (hm : 0 < m) (hy : 0 ≤ y) (hlt : y < 2 ^ 64) :
    (mulMod (x % m).toNat y.toNat m.toNat : Int) = x * y % m := by
  rw [mulMod_eq (by omega) (by omega)]
  push_cast
  rw [Int.toNat_of_nonneg (Int.emod_nonneg x hm.ne'), Int.toNat_of_nonneg hy,
    Int.toNat_of_nonneg hm.le]
  exact (Int.mod_modEq x m).mul_right y

/-- PowMod on the reduced base gives the residue of the integer's power (R54, R59). -/
theorem natCast_powMod_emod {x y m : Int} (hm : 0 < m) (hlt : y < 2 ^ 64) :
    (powMod (x % m).toNat y.toNat m.toNat : Int) = x ^ y.toNat % m := by
  rw [powMod_eq (by omega) (by omega)]
  push_cast
  rw [Int.toNat_of_nonneg (Int.emod_nonneg x hm.ne'), Int.toNat_of_nonneg hm.le]
  exact (Int.mod_modEq x m).pow y.toNat

/-! ### The completions, for either U bit -/

/-- When the checks pass, the multiply writes the residue of the product (R56, R57). -/
theorem completeModmul_of_valid {u : Bool} {s : State} (hm : 0 < readOperand u s.latch.m)
    (hy : 0 ≤ readOperand u s.latch.b) :
    completeModmul u s = .next ({ s with
      res0 := BitVec.ofInt 64 (readOperand u s.latch.a * readOperand u s.latch.b %
        readOperand u s.latch.m) } : State).afterSuccess := by
  rw [completeModmul, modOperands_of_valid hm hy, ← natCast_mulMod_emod hm hy (readOperand_lt _ _)]
  rfl

/-- When the checks pass, the exponentiation writes the residue of the power (R59, R60). -/
theorem completeModexp_of_valid {u : Bool} {s : State} (hm : 0 < readOperand u s.latch.m)
    (hy : 0 ≤ readOperand u s.latch.b) :
    completeModexp u s = .next ({ s with
      res0 := BitVec.ofInt 64 (readOperand u s.latch.a ^ (readOperand u s.latch.b).toNat %
        readOperand u s.latch.m) } : State).afterSuccess := by
  rw [completeModexp, modOperands_of_valid hm hy, ← natCast_powMod_emod hm (readOperand_lt _ _)]
  rfl

/-- A multiply whose operands fail a check completes with that check's error (R56, R57). -/
theorem completeModmul_of_error {u : Bool} {s : State} {e : CommandError}
    (h : modOperands u s.latch = .error e) :
    completeModmul u s = .next (s.afterError e.cause e.detail) := by
  rw [completeModmul, h, ← completeError_eq_afterError]
  rfl

/-- An exponentiation whose operands fail a check completes with that check's error (R59, R60). -/
theorem completeModexp_of_error {u : Bool} {s : State} {e : CommandError}
    (h : modOperands u s.latch = .error e) :
    completeModexp u s = .next (s.afterError e.cause e.detail) := by
  rw [completeModexp, h, ← completeError_eq_afterError]
  rfl

/-! ### The checks under each reading -/

/-- The failing checks of the signed reading, for a completion that answers each with its error
(R54, R80). -/
theorem signed_checks_fail {s : State} {o : Host.Outcome State Fault Refusal}
    (herror : ∀ e, modOperands false s.latch = .error e →
      o = .next (s.afterError e.cause e.detail)) :
    (s.latch.m.toInt = 0 → o = .next (s.afterError 1 1)) ∧
    (s.latch.m.toInt < 0 → o = .next (s.afterError 2 2)) ∧
    (0 < s.latch.m.toInt → s.latch.b.toInt < 0 → o = .next (s.afterError 2 1)) :=
  ⟨fun hm => herror .zeroModulus (modOperands_of_zero hm),
    fun hm => herror .negModulus (modOperands_of_neg hm),
    fun hm hy => herror .negExponent (modOperands_of_negY hm hy)⟩

/-- The unsigned reading passes the checks of R54 as soon as the modulus is not 0 (R57, R60). -/
theorem readOperand_unsigned_pos {w : Word} (h : w.toNat ≠ 0) : 0 < readOperand true w := by
  rw [readOperand_unsigned]
  omega

/-- The unsigned reading of a zero modulus fails the first check of R54 (R57, R60). -/
theorem readOperand_unsigned_eq_zero {w : Word} (h : w.toNat = 0) : readOperand true w = 0 := by
  rw [readOperand_unsigned, h]
  rfl

/-! ### The commands -/

theorem exec_modmul (s : State) : exec .modmul s = completeModmul false s := rfl

theorem exec_modmulU (s : State) : exec .modmulU s = completeModmul true s := rfl

theorem exec_modexp (s : State) : exec .modexp s = completeModexp false s := rfl

theorem exec_modexpU (s : State) : exec .modexpU s = completeModexp true s := rfl

/-- Settles O10: the signed operands pass the checks and give the residue, or fail one of three. -/
theorem modmulComputesTheResidueOrFails : Obligations.ModmulComputesTheResidueOrFails := by
  refine ⟨by decide, fun s => ?_⟩
  rw [exec_modmul]
  exact ⟨completeModmul_of_valid (u := false), signed_checks_fail fun _ => completeModmul_of_error⟩

/-- Settles O11: under the unsigned reading only the modulus can fail, and the integers' residue is
the naturals'. -/
theorem modmulUComputesTheResidueOrFails : Obligations.ModmulUComputesTheResidueOrFails := by
  refine ⟨by decide, fun s => ?_⟩
  rw [exec_modmulU]
  refine ⟨fun hm => ?residue, fun hm => ?zeroModulus⟩
  case residue =>
    rw [completeModmul_of_valid (readOperand_unsigned_pos hm) (readOperand_unsigned_nonneg _)]
    simp only [readOperand_unsigned]
    rw [← BitVec.ofInt_natCast]
    push_cast
    rfl
  case zeroModulus =>
    exact completeModmul_of_error (modOperands_of_zero (readOperand_unsigned_eq_zero hm))

/-- Settles O12: the signed operands pass the checks and give the residue, or fail one of three. -/
theorem modexpComputesThePowerOrFails : Obligations.ModexpComputesThePowerOrFails := by
  refine ⟨by decide, fun s => ?_⟩
  rw [exec_modexp]
  exact ⟨completeModexp_of_valid (u := false), signed_checks_fail fun _ => completeModexp_of_error⟩

/-- Settles O13: under the unsigned reading only the modulus can fail, and the integers' residue is
the naturals'. -/
theorem modexpUComputesThePowerOrFails : Obligations.ModexpUComputesThePowerOrFails := by
  refine ⟨by decide, fun s => ?_⟩
  rw [exec_modexpU]
  refine ⟨fun hm => ?residue, fun hm => ?zeroModulus⟩
  case residue =>
    rw [completeModexp_of_valid (readOperand_unsigned_pos hm) (readOperand_unsigned_nonneg _)]
    simp only [readOperand_unsigned, Int.toNat_natCast]
    rw [← BitVec.ofInt_natCast]
    push_cast
    rfl
  case zeroModulus =>
    exact completeModexp_of_error (modOperands_of_zero (readOperand_unsigned_eq_zero hm))

end Sys2Proof.Machine
end

section
/-! The witness test of `isprime` and `isprime.u` (spec/42_primality.md R62 to R67): the halving loop
of Decompose, a witness round as the residues of the powers `a^(d·2^r)`, and MillerRabin as acceptance
by every witness of the selected set, under either reading of the operand. -/

namespace Sys2Proof.Machine

/-! ### Decompose (R63) -/

/-- `(d, s)` is what Decompose is to answer for `n`: `n − 1 = d·2^s` with `d` odd (R63). -/
structure Decomposes (n d s : Nat) : Prop where
  split : n - 1 = d * 2 ^ s
  odd : d % 2 = 1

/-- The loop keeps `d·2^s` and stops at an odd `d`, since `fuel` bits hold at most `fuel - 1` factors
of two. -/
theorem decomposeLoop_spec (fuel d s : Nat) (hpos : 0 < d) (hlt : d < 2 ^ fuel) :
    d * 2 ^ s = (decomposeLoop fuel d s).1 * 2 ^ (decomposeLoop fuel d s).2 ∧
      (decomposeLoop fuel d s).1 % 2 = 1 ∧ (decomposeLoop fuel d s).2 < s + fuel := by
  induction fuel generalizing d s with
  | zero => omega
  | succ fuel ih =>
    rw [decomposeLoop]
    split
    next heven =>
      obtain ⟨hsplit, hodd, hs⟩ := ih (d / 2) (s + 1) (by omega) (by rw [pow_succ] at hlt; omega)
      have hhalf : d * 2 ^ s = d / 2 * 2 ^ (s + 1) := by
        rw [pow_succ', ← mul_assoc, Nat.div_mul_cancel (Nat.dvd_of_mod_eq_zero heven)]
      exact ⟨hhalf.trans hsplit, hodd, by omega⟩
    next hodd => exact ⟨rfl, by omega, by omega⟩

/-- Settles O14: the loop starts at `n − 1`, a positive number of 64 bits, with `s = 0`. -/
theorem decomposeSplitsOffTheTwos : Obligations.DecomposeSplitsOffTheTwos := by
  intro n hn hlt
  have hloop : decompose n = decomposeLoop 64 (n - 1) 0 := rfl
  obtain ⟨hsplit, hodd, hs⟩ := decomposeLoop_spec 64 (n - 1) 0 (by omega) (by omega)
  rw [hloop]
  exact ⟨by simpa using hsplit, hodd, by omega⟩

/-- The pair of Decompose is a decomposition (R63). -/
theorem decompose_decomposes {n : Nat} (hn : 2 < n) (hlt : n < 2 ^ 64) :
    Decomposes n (decompose n).1 (decompose n).2 := by
  obtain ⟨hsplit, hodd, -⟩ := decomposeSplitsOffTheTwos n hn hlt
  exact ⟨hsplit, hodd⟩

/-- A number has one odd part and one exponent of two. -/
theorem odd_mul_two_pow_inj {d e s t : Nat} (hd : d % 2 = 1) (he : e % 2 = 1)
    (h : d * 2 ^ s = e * 2 ^ t) : d = e ∧ s = t := by
  induction s generalizing t with
  | zero =>
    cases t with
    | zero => exact ⟨by simpa using h, rfl⟩
    | succ t => rw [pow_zero, pow_succ, ← mul_assoc] at h; omega
  | succ s ih =>
    cases t with
    | zero => rw [pow_zero, pow_succ, ← mul_assoc] at h; omega
    | succ t =>
      rw [pow_succ, pow_succ, ← mul_assoc, ← mul_assoc] at h
      obtain ⟨hde, hst⟩ := ih (t := t) (by omega)
      exact ⟨hde, by rw [hst]⟩

/-- The existential of acceptance ranges over one pair, so any decomposition decides it (R64). -/
theorem Decomposes.witnessAccepts_iff {n d s : Nat} (h : Decomposes n d s) (a : Nat) :
    WitnessAccepts a n ↔
      n = a ∨ a ^ d % n = 1 ∨ ∃ r < s, a ^ (d * 2 ^ r) % n = n - 1 := by
  refine or_congr_right ⟨fun haccepts => ?_, fun hpower => ⟨d, s, h.split, h.odd, hpower⟩⟩
  obtain ⟨e, t, hsplit, hodd, hpower⟩ := haccepts
  obtain ⟨rfl, rfl⟩ := odd_mul_two_pow_inj h.odd hodd (h.split.symm.trans hsplit)
  exact hpower

/-- `n` is odd exactly when there is a factor of two to split off (R63). -/
theorem Decomposes.pos_iff {n d s : Nat} (h : Decomposes n d s) (hn : 0 < n) :
    0 < s ↔ n % 2 = 1 := by
  obtain ⟨hsplit, hodd⟩ := h
  cases s with
  | zero => rw [pow_zero] at hsplit; omega
  | succ s => rw [pow_succ, ← mul_assoc] at hsplit; omega

/-- The odd part has no more bits than `n`, so PowMod's loop sees all of it (R63). -/
theorem Decomposes.lt {n d s : Nat} (h : Decomposes n d s) (hlt : n < 2 ^ 64) : d < 2 ^ 64 := by
  have hle : d ≤ d * 2 ^ s := Nat.le_mul_of_pos_right d (Nat.two_pow_pos s)
  have hsplit := h.split
  omega

/-! ### A witness round (R64) -/

/-- The squarings pass when one of `x^2, x^4, …, x^(2^left)` is `n − 1` modulo `n` (R64). -/
theorem squaring_eq_passed_iff (left x n : Nat) :
    squaring left x n = .passed ↔ ∃ r < left, x ^ 2 ^ (r + 1) % n = n - 1 := by
  induction left generalizing x with
  | zero => simp [squaring]
  | succ left ih =>
    have hsquare (r : Nat) : (x * x % n) ^ 2 ^ (r + 1) % n = x ^ 2 ^ (r + 1 + 1) % n := by
      rw [← Nat.pow_mod, ← pow_two, ← pow_mul, ← pow_succ']
    rw [Nat.exists_lt_succ_left, squaring]
    by_cases hlast : x * x % n = n - 1
    · simp [wideMod, wideMul, pow_two, hlast]
    · simp [wideMod, wideMul, ih, hsquare, pow_two, hlast]

/-- The number `start` computes is the residue of `a^d` (R64). -/
theorem powMod_witness {a n d : Nat} (hn : 0 < n) (hd : d < 2 ^ 64) :
    powMod (a % n) d n = a ^ d % n := by
  rw [powMod_eq hn hd, ← Nat.pow_mod]

/-- A round with `s + 1` factors of two passes when `a^d` is 1, or `a^(d·2^r)` is `n − 1` for some
`r ≤ s`, modulo `n` (R64). -/
theorem witnessRound_succ_eq_passed_iff {n d : Nat} (a s : Nat) (hn : 0 < n) (hd : d < 2 ^ 64) :
    witnessRound a n d (s + 1) = .passed ↔
      a ^ d % n = 1 ∨ ∃ r < s + 1, a ^ (d * 2 ^ r) % n = n - 1 := by
  have hpower (r : Nat) : (a ^ d % n) ^ 2 ^ (r + 1) % n = a ^ (d * 2 ^ (r + 1)) % n := by
    rw [← Nat.pow_mod, ← pow_mul]
  rw [Nat.exists_lt_succ_left, pow_zero, mul_one, ← or_assoc, witnessRound, powMod_witness hn hd]
  simp only [Nat.add_sub_cancel]
  split
  next hstart => simp [hstart]
  next hstart => simp [hstart, squaring_eq_passed_iff, hpower]

/-- A round without factors of two ends at `start` (R64). -/
theorem witnessRound_zero_eq_failed {a n d : Nat} (hn : 0 < n) (hd : d < 2 ^ 64)
    (hone : a ^ d % n ≠ 1) (hlast : a ^ d % n ≠ n - 1) : witnessRound a n d 0 = .failed := by
  rw [witnessRound, powMod_witness hn hd]
  exact if_neg (not_or.mpr ⟨hone, hlast⟩)

/-- For odd `n`, acceptance is the `n = a` exit or a passed round (R64, R65). -/
theorem Decomposes.witnessAccepts_iff_round {n d s : Nat} (h : Decomposes n d s)
    (hodd : n % 2 = 1) (hlt : n < 2 ^ 64) (a : Nat) :
    WitnessAccepts a n ↔ n = a ∨ witnessRound a n d s = .passed := by
  have hn : 0 < n := by omega
  obtain ⟨k, rfl⟩ := Nat.exists_eq_add_one.mpr ((h.pos_iff hn).mpr hodd)
  rw [h.witnessAccepts_iff, witnessRound_succ_eq_passed_iff a k hn (h.lt hlt)]

/-! ### The witnesses in their order (R65) -/

/-- Stopping at `n = a` loses nothing when every witness accepts each member of the list. -/
theorem tryWitnesses_eq_true_iff {n d s : Nat} {ws : List Nat}
    (hround : ∀ a, WitnessAccepts a n ↔ n = a ∨ witnessRound a n d s = .passed)
    (hmem : n ∈ ws → ∀ a ∈ ws, WitnessAccepts a n) :
    tryWitnesses n d s ws = true ↔ ∀ a ∈ ws, WitnessAccepts a n := by
  induction ws with
  | nil => simp [tryWitnesses]
  | cons a rest ih =>
    rw [tryWitnesses]
    split
    next heq => exact iff_of_true rfl (hmem (by simp [heq]))
    next hne =>
      split
      next hfailed =>
        have hrejects : ¬ WitnessAccepts a n := by simp [hround, hne, hfailed]
        exact iff_of_false (by simp) fun hall => hrejects (hall a List.mem_cons_self)
      next hpassed =>
        have haccepts : WitnessAccepts a n := by
          cases hr : witnessRound a n d s with
          | passed => exact (hround a).mpr (.inr hr)
          | failed => exact absurd hr hpassed
        rw [ih fun hrest b hb => hmem (List.mem_cons_of_mem a hrest) b (List.mem_cons_of_mem a hb)]
        simp [haccepts]

/-- Above 2, the early exit is taken only for 7 and 61, members of the small set (R65). -/
theorem eq_seven_or_of_mem_witnessSet {n : Nat} (hn : 2 < n) (h : n ∈ witnessSet n) :
    n = 7 ∨ n = 61 := by
  unfold witnessSet at h
  split at h
  next =>
    simp only [witnessesW3, List.mem_cons, List.not_mem_nil, or_false] at h
    omega
  next hlarge =>
    simp only [witnessesW12, List.mem_cons, List.not_mem_nil, or_false] at h
    rw [thresholdMR] at hlarge
    omega

/-- "where the remaining witnesses would also pass" (R65). -/
theorem witnessAccepts_of_mem_witnessSet {n : Nat} (hn : 2 < n) (h : n ∈ witnessSet n) :
    ∀ a ∈ witnessSet n, WitnessAccepts a n := by
  rcases eq_seven_or_of_mem_witnessSet hn h with rfl | rfl
  · have h7 : Decomposes 7 3 1 := ⟨rfl, rfl⟩
    simp only [h7.witnessAccepts_iff]
    decide
  · have h61 : Decomposes 61 15 2 := ⟨rfl, rfl⟩
    simp only [h61.witnessAccepts_iff]
    decide

/-- Both witness sets begin with 2 (R62). -/
theorem exists_witnessSet_eq_two_cons (n : Nat) : ∃ rest, witnessSet n = 2 :: rest := by
  unfold witnessSet
  split
  · exact ⟨_, rfl⟩
  · exact ⟨_, rfl⟩

/-- Modulo an even number, a positive power of 2 is even: "neither 1 nor `n − 1`" (R66). -/
theorem two_pow_mod_even {n d : Nat} (hn : n % 2 = 0) (hd : d % 2 = 1) : 2 ^ d % n % 2 = 0 := by
  rw [Nat.mod_mod_of_dvd _ (Nat.dvd_of_mod_eq_zero hn)]
  exact Nat.mod_eq_zero_of_dvd (dvd_pow_self 2 (by omega))

/-- Witness 2 does not accept an even number above 2: there is no squaring, and `2^d` is even. -/
theorem Decomposes.not_witnessAccepts_two {n d s : Nat} (h : Decomposes n d s) (hn : 2 < n)
    (heven : n % 2 = 0) : ¬ WitnessAccepts 2 n := by
  have hpos := h.pos_iff (by omega)
  have hpow := two_pow_mod_even heven h.odd
  rw [h.witnessAccepts_iff]
  rintro (heq | hone | ⟨r, hr, -⟩) <;> omega

/-- The round of witness 2 fails on an even number above 2. -/
theorem Decomposes.witnessRound_two_eq_failed {n d s : Nat} (h : Decomposes n d s) (hn : 2 < n)
    (heven : n % 2 = 0) (hlt : n < 2 ^ 64) : witnessRound 2 n d s = .failed := by
  have hpos := h.pos_iff (by omega)
  have hpow := two_pow_mod_even heven h.odd
  obtain rfl : s = 0 := by omega
  exact witnessRound_zero_eq_failed (by omega) (h.lt hlt) (by omega) (by omega)

/-- MillerRabin's rounds find whether every witness of the set accepts `n` (R65). For even `n` the
first witness, 2, decides both sides. -/
theorem Decomposes.tryWitnesses_iff {n d s : Nat} (h : Decomposes n d s) (hn : 2 < n)
    (hlt : n < 2 ^ 64) :
    tryWitnesses n d s (witnessSet n) = true ↔ ∀ a ∈ witnessSet n, WitnessAccepts a n := by
  rcases Nat.mod_two_eq_zero_or_one n with heven | hodd
  · obtain ⟨rest, hrest⟩ := exists_witnessSet_eq_two_cons n
    have hround : tryWitnesses n d s (witnessSet n) = false := by
      rw [hrest, tryWitnesses, if_neg hn.ne', if_pos (h.witnessRound_two_eq_failed hn heven hlt)]
    have hrejects : ¬ ∀ a ∈ witnessSet n, WitnessAccepts a n := fun hall =>
      h.not_witnessAccepts_two hn heven (hall 2 (by simp [hrest]))
    exact iff_of_false (by simp [hround]) hrejects
  · exact tryWitnesses_eq_true_iff (h.witnessAccepts_iff_round hodd hlt)
      (witnessAccepts_of_mem_witnessSet hn)

/-! ### MillerRabin and the commands (R62, R65 to R67) -/

/-- `n` is 2, or above 2 and accepted by every witness of the set its size selects (R62, R65). -/
def FixedWitnessAccepts (n : Int) : Prop :=
  n = 2 ∨ (2 < n ∧ (n < 4759123141 → ∀ a ∈ [2, 7, 61], WitnessAccepts a n.toNat) ∧
    (4759123141 ≤ n →
      ∀ a ∈ [2, 3, 5, 7, 11, 13, 17, 19, 23, 29, 31, 37], WitnessAccepts a n.toNat))

/-- The threshold's two clauses say which set is selected (R62). -/
theorem forall_mem_witnessSet_iff (n : Nat) (p : Nat → Prop) :
    (∀ a ∈ witnessSet n, p a) ↔
      (n < thresholdMR → ∀ a ∈ witnessesW3, p a) ∧
        (thresholdMR ≤ n → ∀ a ∈ witnessesW12, p a) := by
  unfold witnessSet
  split
  next hsmall => simp [hsmall, hsmall.not_ge]
  next hlarge => simp [hlarge, not_lt.mp hlarge]

/-- Above 2, acceptance is acceptance by every member of the witness set (R62). -/
theorem fixedWitnessAccepts_natCast_iff {n : Nat} (hn : 2 < n) :
    FixedWitnessAccepts n ↔ ∀ a ∈ witnessSet n, WitnessAccepts a n := by
  have hsmall : (n : Int) < 4759123141 ↔ n < thresholdMR := by rw [thresholdMR]; omega
  have hlarge : (4759123141 : Int) ≤ n ↔ thresholdMR ≤ n := by rw [thresholdMR]; omega
  have hne : (n : Int) ≠ 2 := by omega
  have hgt : (2 : Int) < n := by omega
  rw [forall_mem_witnessSet_iff, FixedWitnessAccepts, hsmall, hlarge]
  simp only [hne, hgt, false_or, true_and, Int.toNat_natCast, witnessesW3, witnessesW12]

/-- Above 2, MillerRabin tries the witness set on the decomposition (R65). -/
theorem millerRabin_natCast {n : Nat} (hn : 2 < n) :
    millerRabin n = tryWitnesses n (decompose n).1 (decompose n).2 (witnessSet n) := by
  rw [millerRabin, if_neg (by omega), if_neg (by omega)]
  rfl

/-- MillerRabin is the fixed-witness test on every integer below 2⁶⁴ (R65). -/
theorem millerRabin_eq_true_iff {n : Int} (hlt : n < 2 ^ 64) :
    millerRabin n = true ↔ FixedWitnessAccepts n := by
  rcases lt_trichotomy n 2 with hsmall | rfl | hlarge
  · have hle : n ≤ 1 := by omega
    have hrejects : ¬ FixedWitnessAccepts n := by
      rintro (heq | ⟨hgt, -⟩) <;> omega
    exact iff_of_false (by simp [millerRabin, hle]) hrejects
  · exact iff_of_true rfl (.inl rfl)
  · lift n to Nat using by omega
    have hn : 2 < n := by omega
    have hlt' : n < 2 ^ 64 := by omega
    rw [millerRabin_natCast hn, (decompose_decomposes hn hlt').tryWitnesses_iff hn hlt',
      fixedWitnessAccepts_natCast_iff hn]

/-- What the completion of `isprime` runs (R66). -/
theorem exec_isprime (s : State) :
    exec .isprime s = .next ({ s with
      res0 := boolWord (millerRabin (readOperand false s.latch.a)) } : State).afterSuccess := rfl

/-- What the completion of `isprime.u` runs (R67). -/
theorem exec_isprimeU (s : State) :
    exec .isprimeU s = .next ({ s with
      res0 := boolWord (millerRabin (readOperand true s.latch.a)) } : State).afterSuccess := rfl

/-- RES0 is 1 when the operand's reading is accepted, for either U bit (R66, R67). -/
theorem boolWord_millerRabin_of_accepts {u : Bool} {w : Word}
    (h : FixedWitnessAccepts (readOperand u w)) : boolWord (millerRabin (readOperand u w)) = 1 := by
  rw [(millerRabin_eq_true_iff (readOperand_lt u w)).mpr h]
  rfl

/-- RES0 is 0 when the operand's reading is not accepted, for either U bit (R66, R67). -/
theorem boolWord_millerRabin_of_not_accepts {u : Bool} {w : Word}
    (h : ¬ FixedWitnessAccepts (readOperand u w)) :
    boolWord (millerRabin (readOperand u w)) = 0 := by
  rw [Bool.eq_false_iff.mpr (mt (millerRabin_eq_true_iff (readOperand_lt u w)).mp h)]
  rfl

/-- Settles O15: each command writes MillerRabin's verdict on its own reading of the operand, and
either reading is below 2⁶⁴. -/
theorem isprimeIsTheFixedWitnessTest : Obligations.IsprimeIsTheFixedWitnessTest := by
  refine ⟨by decide, by decide, fun s => ?_⟩
  rw [exec_isprime, exec_isprimeU]
  refine ⟨fun haccepts => ?signed_one, fun hrejects => ?signed_zero,
    fun haccepts => ?unsigned_one, fun hrejects => ?unsigned_zero⟩
  case signed_one => rw [boolWord_millerRabin_of_accepts (u := false) haccepts]
  case signed_zero => rw [boolWord_millerRabin_of_not_accepts (u := false) hrejects]
  case unsigned_one => rw [boolWord_millerRabin_of_accepts (u := true) haccepts]
  case unsigned_zero => rw [boolWord_millerRabin_of_not_accepts (u := true) hrejects]

end Sys2Proof.Machine
end

section
/-! The check of the sieve accessors (spec/43_sieve.md R72): the three outcomes of an accessor's
completion under any limit, the limit of each accessor, and the limits read as comparisons of the
unsigned index with SIEVE_N and SIEVE_COUNT. -/

namespace Sys2Proof.Machine

/-! ### An accessor's completion under any limit -/

/-- NOT_BUILT comes first, whatever the index and the limit are (R72, R83). -/
theorem completeAccessor_of_unbuilt {s : State} (limit : Int) (value : Nat → Word)
    (h : s.status.svalid = false) :
    completeAccessor limit value s = .next (s.afterError 2 4) := by
  rw [completeAccessor, sieveIndex_of_unbuilt h]
  rfl

/-- With a table built, an index beyond the limit is INDEX_RANGE (R72). -/
theorem completeAccessor_of_beyond {s : State} {limit : Int} (value : Nat → Word)
    (h : s.status.svalid = true) (hl : limit < (s.latch.a.toNat : Int)) :
    completeAccessor limit value s = .next (s.afterError 2 5) := by
  rw [completeAccessor, sieveIndex_of_beyond h hl]
  rfl

/-- With a table built, an index within the limit completes with its value in RES0 (R72). -/
theorem completeAccessor_of_within {s : State} {limit : Int} (value : Nat → Word)
    (h : s.status.svalid = true) (hl : (s.latch.a.toNat : Int) ≤ limit) :
    completeAccessor limit value s =
      .next ({ s with res0 := value s.latch.a.toNat } : State).afterSuccess := by
  rw [completeAccessor, sieveIndex_of_within h hl]
  rfl

/-! ### The limit of each accessor -/

/-- Every accessor but `sieve.prime` checks its index against SIEVE_N (R73 to R76, R78). -/
theorem exec_arrayAccessor {i : Instr}
    (hi : i ∈ [Instr.sieveSpf, .sieveExp, .sievePhi, .sieveMu, .sieveIsprime]) (s : State) :
    ∃ value, exec i s = completeAccessor (arrayLimit s) value s := by
  simp only [List.mem_cons, List.not_mem_nil, or_false] at hi
  rcases hi with rfl | rfl | rfl | rfl | rfl <;> exact ⟨_, rfl⟩

/-- `sieve.prime` checks its index against the length of the prime list (R77). -/
theorem exec_sievePrime (s : State) :
    exec .sievePrime s =
      completeAccessor (primesLimit s) (fun j => enc64 (sieveRead .primes j s.table)) s := rfl

/-- Every accessor is the check against some limit, then the completion (R72). -/
theorem exec_accessor {i : Instr}
    (hi : i ∈ [Instr.sieveSpf, .sieveExp, .sievePhi, .sieveMu, .sievePrime, .sieveIsprime])
    (s : State) : ∃ limit value, exec i s = completeAccessor limit value s := by
  by_cases hprime : i = .sievePrime
  · subst hprime
    exact ⟨_, _, exec_sievePrime s⟩
  · exact ⟨_, exec_arrayAccessor (by simpa [hprime] using hi) s⟩

/-- Beyond the arrays' limit is above SIEVE_N (R72). -/
theorem arrayLimit_lt_iff (s : State) (k : Nat) : arrayLimit s < k ↔ s.sieveN.toNat < k :=
  Int.ofNat_lt

/-- Within the arrays' limit is at most SIEVE_N (R72). -/
theorem le_arrayLimit_iff (s : State) (k : Nat) : k ≤ arrayLimit s ↔ k ≤ s.sieveN.toNat :=
  Int.ofNat_le

/-- Beyond the prime list's limit is at or above SIEVE_COUNT, also for an empty list, because
SIEVE_COUNT − 1 is taken over ℤ (R72, R77). -/
theorem primesLimit_lt_iff (s : State) (j : Nat) : primesLimit s < j ↔ s.sieveCount.toNat ≤ j := by
  simp only [primesLimit, uint64]
  omega

/-- Within the prime list's limit is below SIEVE_COUNT (R72, R77). -/
theorem le_primesLimit_iff (s : State) (j : Nat) : j ≤ primesLimit s ↔ j < s.sieveCount.toNat := by
  simp only [primesLimit, uint64]
  omega

/-- Settles O23: each accessor is the check against its limit, which answers in R72's order. -/
theorem accessorsCheckBeforeReading : Obligations.AccessorsCheckBeforeReading := by
  intro s
  refine ⟨fun hbuilt i hi => ?unbuilt, fun hbuilt hindex i hi => ?beyondArrays,
    fun hbuilt hindex => ?beyondPrimes, fun hbuilt hindex i hi => ?withinArrays,
    fun hbuilt hindex => ?withinPrimes⟩
  case unbuilt =>
    obtain ⟨limit, value, hexec⟩ := exec_accessor hi s
    rw [hexec, completeAccessor_of_unbuilt limit value hbuilt]
  case beyondArrays =>
    obtain ⟨value, hexec⟩ := exec_arrayAccessor hi s
    rw [hexec, completeAccessor_of_beyond value hbuilt ((arrayLimit_lt_iff s _).mpr hindex)]
  case beyondPrimes =>
    rw [exec_sievePrime,
      completeAccessor_of_beyond _ hbuilt ((primesLimit_lt_iff s _).mpr hindex)]
  case withinArrays =>
    obtain ⟨value, hexec⟩ := exec_arrayAccessor hi s
    rw [hexec, completeAccessor_of_within value hbuilt ((le_arrayLimit_iff s _).mpr hindex)]
    exact ⟨_, rfl⟩
  case withinPrimes =>
    rw [exec_sievePrime,
      completeAccessor_of_within _ hbuilt ((le_primesLimit_iff s _).mpr hindex)]
    exact ⟨_, rfl⟩

end Sys2Proof.Machine
end

section
/-! The error completion (spec/60_exceptions.md R80, R82): a completion keeps ERR, or it is the
error completion of some error, and every error is one of the produced pairs. -/

namespace Sys2Proof.Machine

/-- The nine pairs of R80 are all that CAUSE and DETAIL can be. -/
theorem CommandError.pair_mem_producedErrors (e : CommandError) :
    (e.cause, e.detail) ∈ producedErrors := by
  cases e with
  | illegal why => cases why <;> decide
  | _ => decide

/-- No success writes ERR, so a command keeps ERR or fails (R26, R82). -/
theorem Completes.err_eq_or_completeError {i : Instr} {s t : State} (h : Completes i s t) :
    t.status.err = s.status.err ∨ ∃ e, t = completeError e s := by
  cases h with
  | result v => exact .inl rfl
  | triple v0 v1 v2 => exact .inl rfl
  | build N => exact .inl rfl
  | failure e => exact .inr ⟨e, rfl⟩

/-- The execution of the latched word keeps ERR or fails; an illegal word fails (R44, R82). -/
theorem execute_err_eq_or_completeError {s t : State} (h : execute s = .next t) :
    t.status.err = s.status.err ∨ ∃ e, t = completeError e s := by
  cases hd : decode s.latch.w with
  | ok i =>
    rw [execute_of_decode_ok hd] at h
    exact (exec_inv h).err_eq_or_completeError
  | error why =>
    rw [execute_of_decode_error hd] at h
    cases h
    exact .inr ⟨.illegal why, rfl⟩

/-- A completion that turns ERR on is the error completion of R82 with a produced pair. -/
theorem exists_afterError_of_err_turned_on {s t : State}
    (h : t.status.err = s.status.err ∨ ∃ e, t = completeError e s)
    (hs : s.status.err = false) (ht : t.status.err = true) :
    ∃ p ∈ producedErrors, t = s.afterError p.1 p.2 := by
  rcases h with hkept | ⟨e, rfl⟩
  · rw [hkept, hs] at ht
    cases ht
  · exact ⟨_, e.pair_mem_producedErrors, completeError_eq_afterError e s⟩

/-- Settles O26: a completion keeps ERR or is an error completion, for a command run by itself and
for the latched word with its decoding. -/
theorem failedCommandsChangeOnlyTheRecord : Obligations.FailedCommandsChangeOnlyTheRecord :=
  ⟨fun _ _ _ h => exists_afterError_of_err_turned_on (exec_inv h).err_eq_or_completeError,
    fun _ _ h => exists_afterError_of_err_turned_on (execute_err_eq_or_completeError h)⟩

end Sys2Proof.Machine
end

section
/-! The completion interrupt (spec/60_exceptions.md R85): what a completion, a host access and a
whole cycle do to PEND. The order of R86 makes a cycle's completion win over its INTR write. -/

namespace Sys2Proof.Machine

/-- A host write to INTR with bit 0 = 1, the only access that can clear PEND (R14, R85). -/
def Access.ClearsPend (a : Access) : Prop :=
  ∃ v : Word, a = .write 0x20 8 v ∧ v.getLsbD 0 = true

/-- `irq` is high exactly when both bits of INTR are set (R85). -/
theorem irq_eq_true_iff (s : State) :
    s.irq = true ↔ s.intr.pend = true ∧ s.intr.ie = true := Bool.and_eq_true_iff

/-! ### The parts of a cycle -/

/-- Every command's completion sets PEND, whether it succeeds or fails (R26, R82). -/
theorem Completes.pend_eq_true {i : Instr} {s t : State} (h : Completes i s t) :
    t.intr.pend = true := by
  cases h <;> rfl

/-- A completion step sets PEND when a command is running and else keeps it (R24, R85). -/
theorem StepEffect.pend_eq {s t : State} (h : StepEffect s t) :
    t.intr.pend = (s.intr.pend || s.status.busy) := by
  cases h with
  | idle hb => simp [hb]
  | completed i t hb _ _ hc => simp [hb, hc.pend_eq_true]
  | illegal why hb => simp [hb]

/-- Bit 0 of a host write to INTR clears PEND (R14). -/
theorem Intr.hostWrite_pend (f : Intr) (v : Word) :
    (f.hostWrite v).pend = (f.pend && !v.getLsbD 0) := rfl

/-- A host access keeps PEND, or it is the write that clears it (R30, R85). -/
theorem AccessEffect.pend_eq_or_cleared {a : Access} {s t : State} (h : AccessEffect a s t) :
    t.intr.pend = s.intr.pend ∨ a.ClearsPend ∧ t.intr.pend = false := by
  cases h with
  | intr v ha =>
    cases hv : v.getLsbD 0 with
    | false => exact .inl (by rw [Intr.hostWrite_pend, hv, Bool.not_false, Bool.and_true])
    | true =>
      exact .inr ⟨⟨v, ha, hv⟩, by rw [Intr.hostWrite_pend, hv, Bool.not_true, Bool.and_false]⟩
  | _ => exact .inl rfl

/-- Only a CMD write can change BUSY (R25, R97). -/
theorem AccessEffect.busy_eq_or_cmdWrite {a : Access} {s t : State} (h : AccessEffect a s t) :
    t.status.busy = s.status.busy ∨ ∃ w, a = .write 0x08 8 w := by
  cases h with
  | accepted w ha => exact .inr ⟨w, ha⟩
  | _ => exact .inl rfl

/-- A CMD write of a cycle comes after its completion (R86 (2)). -/
theorem completionOrderedFirst_cmdWrite (c : Cycle) (w : Word) :
    completionOrderedFirst c (.write 0x08 8 w) = true := rfl

/-- A write that clears PEND comes before the completion of its cycle (R86 (1)). -/
theorem Access.ClearsPend.completionOrderedFirst_eq_false {a : Access} (h : a.ClearsPend)
    (c : Cycle) : completionOrderedFirst c a = false := by
  obtain ⟨v, rfl, _⟩ := h
  rfl

/-! ### The whole cycle -/

/-- Without reset, a cycle sets PEND if a running command completes in it; else it keeps PEND,
unless its access clears it (R85, R86). -/
theorem CycleEffect.pend_eq_or_cleared {c : Cycle} {s t : State} (h : CycleEffect c s t)
    (hr : c.reset = false) :
    t.intr.pend = (s.intr.pend || (s.status.busy && c.completes)) ∨
      (∃ a, c.access = some a ∧ a.ClearsPend) ∧
        t.intr.pend = (s.status.busy && c.completes) := by
  cases h with
  | reset hr' => simp [hr] at hr'
  | quiet _ _ hc => exact .inl (by simp [hc])
  | own t _ _ hc hstep => exact .inl (by simp [hc, hstep.pend_eq])
  | access a t _ ha hc hacc =>
    rcases hacc.pend_eq_or_cleared with hp | ⟨hclears, hp⟩
    · exact .inl (by simp [hc, hp])
    · exact .inr ⟨⟨a, ha, hclears⟩, by simp [hc, hp]⟩
  | completionThenAccess a u t _ ha hc ho hstep hacc =>
    rcases hacc.pend_eq_or_cleared with hp | ⟨hclears, _⟩
    · exact .inl (by simp [hc, hp, hstep.pend_eq])
    · simp [hclears.completionOrderedFirst_eq_false c] at ho
  | accessThenCompletion a u t _ ha hc ho hacc hstep =>
    have hbusy : u.status.busy = s.status.busy := by
      rcases hacc.busy_eq_or_cmdWrite with hb | ⟨w, rfl⟩
      · exact hb
      · simp [completionOrderedFirst_cmdWrite] at ho
    rcases hacc.pend_eq_or_cleared with hp | ⟨hclears, hp⟩
    · exact .inl (by simp [hc, hstep.pend_eq, hbusy, hp])
    · exact .inr ⟨⟨a, ha, hclears⟩, by simp [hc, hstep.pend_eq, hbusy, hp]⟩

/-- The same for a step: the cycle is the next of the agenda, and the agenda plays no part. -/
theorem step_pend_eq_or_cleared {s t : State} (h : step s = .next t)
    (hr : s.nextCycle.reset = false) :
    t.intr.pend = (s.intr.pend || (s.status.busy && s.nextCycle.completes)) ∨
      (∃ a, s.nextCycle.access = some a ∧ a.ClearsPend) ∧
        t.intr.pend = (s.status.busy && s.nextCycle.completes) :=
  (step_inv h).pend_eq_or_cleared hr

/-- A cycle with reset leaves PEND = 0 (R93). -/
theorem step_pend_of_reset {s t : State} (h : step s = .next t)
    (hr : s.nextCycle.reset = true) : t.intr.pend = false := by
  rw [step_eq_runCycle, runCycle, if_pos hr] at h
  cases h
  rfl

/-- Settles O39: each clause reads off what a step does to PEND. -/
theorem pendIsClearedOnlyByTheHostOrReset : Obligations.PendIsClearedOnlyByTheHostOrReset := by
  refine ⟨irq_eq_true_iff, fun s t h hb hc hr => ?completionSets, fun s t h hs ht => ?cleared,
    fun s t h hs ht => ?set⟩
  case completionSets =>
    rcases step_pend_eq_or_cleared h hr with hp | ⟨_, hp⟩ <;> simp [hp, hb, hc]
  case cleared =>
    cases hr : s.nextCycle.reset with
    | true => exact .inl rfl
    | false =>
      rcases step_pend_eq_or_cleared h hr with hp | ⟨⟨a, ha, v, rfl, hv⟩, _⟩
      · simp [hp, hs] at ht
      · exact .inr ⟨v, ha, hv⟩
  case set =>
    cases hr : s.nextCycle.reset with
    | true => simp [step_pend_of_reset h hr] at ht
    | false =>
      have hcompletes : (s.status.busy && s.nextCycle.completes) = true := by
        rcases step_pend_eq_or_cleared h hr with hp | ⟨_, hp⟩ <;> simpa [hp, hs] using ht
      obtain ⟨hb, hc⟩ := Bool.and_eq_true_iff.mp hcompletes
      exact ⟨hb, hc, rfl⟩

end Sys2Proof.Machine
end


section
/-! Hazards of the command latch and reset (spec/70_reset_and_hazards.md R93, R94, R97): a CMD write
while BUSY is dropped, an accept alone clears the overrun it records, and reset ends everything. -/

namespace Sys2Proof.Machine

/-! ### The dropped write -/

/-- A CMD write while BUSY is dropped (R11, R97). -/
theorem writeCmd_of_busy {s : State} (h : s.status.busy = true) (w : Word) :
    writeCmd w s = dropCommand s := by
  simp [writeCmd, h]

/-- A CMD write to a busy block, in a cycle without completion, is dropped and answered (R97). -/
theorem runCycle_cmdWrite_of_busy {c : Cycle} {w : Word} {s : State} (hr : c.reset = false)
    (ha : c.access = some (.write 0x08 8 w)) (hc : c.completes = false)
    (hb : s.status.busy = true) :
    runCycle c s = .next { dropCommand s with response := .written } := by
  rw [runCycle_cmdWrite hr ha, hc, if_neg Bool.false_ne_true, andThen, hostAccess_cmdWrite,
    writeCmd_of_busy hb]

/-! ### What clears OVR -/

/-- No completion of a command writes OVR (R26, R82). -/
theorem Completes.ovr_eq {i : Instr} {s t : State} (h : Completes i s t) :
    t.status.ovr = s.status.ovr := by
  cases h <;> rfl

/-- A completion step keeps OVR, whether the latched word is legal or not (R26, R82). -/
theorem StepEffect.ovr_eq {s t : State} (h : StepEffect s t) : t.status.ovr = s.status.ovr := by
  cases h with
  | idle _ => rfl
  | completed i t _ _ _ hc => exact hc.ovr_eq
  | illegal why _ => rfl

/-- A host access keeps a set OVR, unless it is a CMD write to an idle block, an accept (R25, R97). -/
theorem AccessEffect.ovr_kept_or_accepted {a : Access} {s t : State} (h : AccessEffect a s t)
    (hs : s.status.ovr = true) :
    t.status.ovr = true ∨ s.status.busy = false ∧ ∃ w, a = .write 0x08 8 w := by
  cases h with
  | accepted w ha hb => exact .inr ⟨hb, w, ha⟩
  | dropped => exact .inl rfl
  | _ => exact .inl hs

/-- Without reset, a cycle keeps a set OVR, unless it presents a CMD write to a block that is idle or
in which a completion falls; an access ordered before the completion is no CMD write (R86, R97). -/
theorem CycleEffect.ovr_kept_or_accepted {c : Cycle} {s t : State} (h : CycleEffect c s t)
    (hr : c.reset = false) (hs : s.status.ovr = true) :
    t.status.ovr = true ∨ (s.status.busy = false ∨ c.completes = true) ∧
      ∃ w, c.access = some (.write 0x08 8 w) := by
  cases h with
  | reset hr' => simp [hr] at hr'
  | quiet => exact .inl hs
  | own t _ _ _ hstep => exact .inl (hstep.ovr_eq.trans hs)
  | access a t _ ha _ hacc =>
    rcases hacc.ovr_kept_or_accepted hs with ht | ⟨hb, w, rfl⟩
    · exact .inl ht
    · exact .inr ⟨.inl hb, w, ha⟩
  | completionThenAccess a u t _ ha hc _ hstep hacc =>
    rcases hacc.ovr_kept_or_accepted (hstep.ovr_eq.trans hs) with ht | ⟨_, w, rfl⟩
    · exact .inl ht
    · exact .inr ⟨.inr hc, w, ha⟩
  | accessThenCompletion a u t _ _ _ ho hacc hstep =>
    rcases hacc.ovr_kept_or_accepted hs with hu | ⟨_, w, rfl⟩
    · exact .inl (hstep.ovr_eq.trans hu)
    · simp [completionOrderedFirst_cmdWrite] at ho

/-- Settles O30: the busy cycle drops the write, and an OVR that a step clears was not kept by its
cycle. -/
theorem busyCmdWriteIsDropped : Obligations.BusyCmdWriteIsDropped := by
  refine ⟨fun s c rest w hs hr ha hc hb => ?dropped, fun s t h hs ht => ?cleared⟩
  case dropped =>
    have hcycle : runCycle c { s with agenda := rest } =
        .next { dropCommand { s with agenda := rest } with response := .written } :=
      runCycle_cmdWrite_of_busy hr ha hc hb
    rw [step_of_agenda_cons hs, hcycle]
    rfl
  case cleared =>
    cases hr : s.nextCycle.reset with
    | true => exact .inl rfl
    | false =>
      rcases (step_inv h).ovr_kept_or_accepted hr hs with hkept | haccept
      · simp [hkept] at ht
      · exact .inr haccept

/-! ### Reset -/

/-- A cycle with reset asserted resets the block, whatever else is in it (R86 (3), R94). -/
theorem runCycle_of_reset {c : Cycle} (hr : c.reset = true) (s : State) :
    runCycle c s = .next (resetBlock c.access s) := if_pos hr

/-- Settles O37: the cycle never looks at BUSY, and each field of its answer is the one of R93. -/
theorem resetCycleGivesTheResetValues : Obligations.ResetCycleGivesTheResetValues := by
  intro s c rest hs hr
  have hstep : step s = .next (resetBlock c.access { s with agenda := rest }) :=
    (step_of_agenda_cons hs).trans (runCycle_of_reset hr _)
  exact ⟨_, hstep, by simp [resetBlock, State.reset, State.irq]⟩

end Sys2Proof.Machine
end

section
/-! Decode and encode agree over all 64 bits (spec/30_encoding.md R43 to R46): the fields determine
the word, a row of the opcode map determines the command's fields, and the byte lanes of a word make
it again (spec/20_memory.md R29). -/

namespace Sys2Proof

/-! ### The fields determine the word (R40) -/

/-- The number of a packed word: OPC, U at bit 8 and RSV above it (R40). -/
theorem packWord_toNat (c : CommandWord) :
    (packWord c).toNat = c.opc.toNat + 256 * c.u.toNat + 512 * c.rsv.toNat := by
  have hopc := c.opc.isLt
  have hu : (BitVec.ofBool c.u).toNat = c.u.toNat := BitVec.toNat_ofBool c.u
  have hu1 : c.u.toNat < 2 := Bool.toNat_lt c.u
  have hrsv : (c.rsv ++ BitVec.ofBool c.u).toNat = c.rsv.toNat * 2 + c.u.toNat := by
    rw [BitVec.toNat_append, ← Nat.shiftLeft_add_eq_or_of_lt (by rw [hu]; omega), hu,
      Nat.shiftLeft_eq]
  rw [packWord, BitVec.toNat_append, ← Nat.shiftLeft_add_eq_or_of_lt (by omega), hrsv,
    Nat.shiftLeft_eq]
  omega

/-- Packing the fields of a word gives the word (R40). -/
theorem packWord_splitWord (w : Word) : packWord (splitWord w) = w := by
  have hu : (splitWord w).u.toNat = w.toNat / 256 % 2 := by
    rw [splitWord_u]
    rcases Nat.mod_two_eq_zero_or_one (w.toNat / 256) with h | h <;> simp [h]
  apply BitVec.eq_of_toNat_eq
  rw [packWord_toNat, splitWord_opc_toNat, splitWord_rsv_toNat, hu]
  omega

/-! ### A row of the opcode map determines the fields (R43) -/

/-- The row of a command in the opcode map carries the opcode and the U bit of its encoding. -/
theorem fields_of_opcodeMap {opc : BitVec 8} {u : Bool} {i : Instr} (h : opcodeMap opc u = some i) :
    i.fields = ⟨opc, u, 0⟩ := by
  unfold opcodeMap at h
  split at h <;> cases h <;>
    simp only [Instr.fields, CommandWord.mk.injEq, and_true] <;>
    exact (BitVec.eq_of_toNat_eq ‹opc.toNat = _›).symm

/-- Fields that decode to a command are that command's encoding fields (R44, R46). -/
theorem fields_of_decodeFields {c : CommandWord} {i : Instr} (h : decodeFields c = .ok i) :
    i.fields = c := by
  obtain ⟨opc, u, rsv⟩ := c
  unfold decodeFields at h
  split at h
  next => cases h
  next plain hplain =>
    split at h
    next => cases h
    next hrsv =>
      obtain rfl : rsv = 0 := not_not.mp hrsv
      split at h
      next hu =>
        obtain rfl : u = true := hu
        split at h <;> cases h
        exact fields_of_opcodeMap ‹_›
      next hu =>
        obtain rfl : u = false := Bool.not_eq_true _ ▸ hu
        cases h
        exact fields_of_opcodeMap hplain

/-- Each command's word decodes to it (R43, R45). -/
theorem decode_encode (i : Instr) : decode (encode i) = .ok i := by
  cases i <;> decide

/-- Settles O2: a word is its packed fields, and fields that decode are those of the command. -/
theorem decodeInvertsEncodeExactly : Obligations.DecodeInvertsEncodeExactly := by
  refine ⟨fun i _ => decode_encode i, fun w i h => ?_⟩
  calc w = packWord (splitWord w) := (packWord_splitWord w).symm
    _ = encode i := by rw [encode, fields_of_decodeFields h]

/-- The encoding fields of every command pass the checks of R44. -/
theorem Instr.fields_wellFormed (i : Instr) : i.fields.wellFormed = true := by
  cases i <;> decide

/-- Settles O3: the checks let a command be named, and a named command's fields pass them. -/
theorem decodeAcceptsExactlyWellFormedWords : Obligations.DecodeAcceptsExactlyWellFormedWords := by
  refine fun w => ⟨fun ⟨i, hi⟩ => ?_, decodeFields_of_wellFormed⟩
  rw [← fields_of_decodeFields hi]
  exact i.fields_wellFormed

/-- Settles O1: the fourteen words, evaluated. -/
theorem opcodeMapWordsDecode : Obligations.OpcodeMapWordsDecode := by
  unfold Obligations.OpcodeMapWordsDecode
  decide

/-! ### Byte lanes (R28, R29) -/

/-- Byte lane `k` as a number. -/
theorem byteLane_toNat (v : Word) (k : Nat) :
    (byteLane v k).toNat = v.toNat / 2 ^ (8 * k) % 256 := by
  rw [byteLane, BitVec.extractLsb'_toNat, Nat.shiftRight_eq_div_pow]

/-- The eight lanes of a word make its number again (R29). -/
theorem lanesValue_toLanes (v : Word) : lanesValue (toLanes v) = v.toNat := by
  have hv := v.isLt
  have hlanes : toLanes v = [byteLane v 0, byteLane v 1, byteLane v 2, byteLane v 3, byteLane v 4,
    byteLane v 5, byteLane v 6, byteLane v 7] := rfl
  simp only [hlanes, lanesValue, byteLane_toNat]
  omega

/-- Settles O5: a lane is a lane of the listed range, and the lanes' number is the word's. -/
theorem byteLanesAreLittleEndian : Obligations.ByteLanesAreLittleEndian := by
  refine ⟨fun v k hk => ?lane, fun v => ?roundTrip, fun bs hbs => if_neg hbs⟩
  case lane => simp [toLanes, byteLane, hk]
  case roundTrip =>
    have hlength : (toLanes v).length = 8 := rfl
    rw [fromLanes, if_pos hlength, lanesValue_toLanes, BitVec.ofNat_toNat, BitVec.setWidth_eq]

end Sys2Proof
end

section
/-! What a bus cycle keeps (spec/60_exceptions.md R86): the parts of a cycle without reset in their
order, and through them the invariant of every reachable state (spec/10_state.md R12, R13, R17,
spec/43_sieve.md R68). -/

namespace Sys2Proof.Machine

/-! ### The parts of a cycle -/

/-- What comes before a cycle's completion: nothing, or the cycle's access, which is then no CMD
write (R86 (2)). -/
def EarlyAccess (c : Cycle) (s u : State) : Prop :=
  u = s ∨ ∃ a, c.access = some a ∧ completionOrderedFirst c a = false ∧ AccessEffect a s u

/-- What comes after a cycle's completion: nothing, or the cycle's access. -/
def LateAccess (c : Cycle) (s u : State) : Prop :=
  u = s ∨ ∃ a, c.access = some a ∧ AccessEffect a s u

/-- The completion of a cycle, if one falls in it (R101). -/
def CompletionPart (c : Cycle) (s u : State) : Prop :=
  u = s ∨ c.completes = true ∧ StepEffect s u

/-- A cycle without reset is an early access, a completion and a late access, each of which may be
missing (R86). -/
theorem CycleEffect.parts {c : Cycle} {s t : State} (h : CycleEffect c s t)
    (hr : c.reset = false) :
    ∃ u v, EarlyAccess c s u ∧ CompletionPart c u v ∧ LateAccess c v t := by
  cases h with
  | reset hr' => simp [hr] at hr'
  | quiet => exact ⟨s, s, .inl rfl, .inl rfl, .inl rfl⟩
  | own t _ _ hc hstep => exact ⟨s, t, .inl rfl, .inr ⟨hc, hstep⟩, .inl rfl⟩
  | access a t _ ha _ hacc => exact ⟨s, s, .inl rfl, .inl rfl, .inr ⟨a, ha, hacc⟩⟩
  | completionThenAccess a u t _ ha hc _ hstep hacc =>
    exact ⟨s, u, .inl rfl, .inr ⟨hc, hstep⟩, .inr ⟨a, ha, hacc⟩⟩
  | accessThenCompletion a u t _ ha hc ho hacc hstep =>
    exact ⟨u, t, .inr ⟨a, ha, ho, hacc⟩, .inr ⟨hc, hstep⟩, .inl rfl⟩

/-- An early access is an access; its place in the cycle aside, it does what a late one does. -/
theorem EarlyAccess.lateAccess {c : Cycle} {s u : State} (h : EarlyAccess c s u) :
    LateAccess c s u := by
  rcases h with rfl | ⟨a, ha, _, hacc⟩
  · exact .inl rfl
  · exact .inr ⟨a, ha, hacc⟩

/-- A property that the parts of a cycle keep is kept by the cycle without reset. -/
theorem CycleEffect.keeps {P : State → Prop} {c : Cycle} {s t : State} (h : CycleEffect c s t)
    (hr : c.reset = false)
    (haccess : ∀ a, c.access = some a → ∀ x y, AccessEffect a x y → P x → P y)
    (hstep : c.completes = true → ∀ x y, StepEffect x y → P x → P y) (hs : P s) : P t := by
  have hlate : ∀ {x y}, LateAccess c x y → P x → P y := by
    rintro x y (rfl | ⟨a, ha, hacc⟩) hx
    · exact hx
    · exact haccess a ha x y hacc hx
  obtain ⟨u, v, hearly, hcomp, hl⟩ := h.parts hr
  refine hlate hl ?_
  rcases hcomp with rfl | ⟨hc, hsv⟩
  · exact hlate hearly.lateAccess hs
  · exact hstep hc u v hsv (hlate hearly.lateAccess hs)

/-- A step whose cycle asserts reset answers the reset block (R86 (3), R93). -/
theorem eq_resetBlock_of_step {s t : State} (h : step s = .next t)
    (hr : s.nextCycle.reset = true) :
    t = resetBlock s.nextCycle.access { s with agenda := s.agenda.tail } := by
  rw [step_eq_runCycle, runCycle_of_reset hr] at h
  cases h
  rfl

/-! ### The invariant -/

/-- Settles O44: the flags are clear, the record is 0 and no table is built. -/
theorem invHoldsAtReset : Obligations.InvHoldsAtReset := by
  constructor <;> simp [State.reset]

/-- The agenda, the response, INTR and the operand registers are no part of the invariant. -/
theorem State.Inv.congr {s t : State} (h : s.Inv) (hstatus : t.status = s.status)
    (herror : t.error = s.error) (hn : t.sieveN = s.sieveN) (hcount : t.sieveCount = s.sieveCount)
    (hlatch : t.latch = s.latch) (htable : t.table = s.table) : t.Inv := by
  obtain ⟨h1, h2, h3, h4, h5, h6, h7, h8, h9⟩ := h
  constructor <;> rw [hstatus] <;> simpa only [herror, hn, hcount, hlatch, htable]

/-- The reset block meets the invariant, whatever access came with the reset (R93). -/
theorem resetBlock_inv (access : Option Access) (s : State) : (resetBlock access s).Inv :=
  invHoldsAtReset.congr rfl rfl rfl rfl rfl rfl

/-- An accept starts a command with clear flags and record, and keeps the sieve state (R25). -/
theorem State.Inv.accept {s : State} (h : s.Inv) (w : Word) : (accept w s).Inv where
  busy_not_done _ := rfl
  err_done := nofun
  ovr_started := nofun
  error_clear _ := rfl
  error_produced := nofun
  unbuilt := h.unbuilt
  bound := h.bound
  complete_table := h.complete_table
  count := h.count

/-- A dropped command sets OVR while a command runs (R97). -/
theorem State.Inv.dropCommand {s : State} (h : s.Inv) (hb : s.status.busy = true) :
    (dropCommand s).Inv where
  busy_not_done := h.busy_not_done
  err_done := h.err_done
  ovr_started _ := .inl hb
  error_clear := h.error_clear
  error_produced := h.error_produced
  unbuilt := h.unbuilt
  bound := h.bound
  complete_table := h.complete_table
  count := h.count

/-- No host access breaks the invariant (R30). -/
theorem State.Inv.access {a : Access} {s t : State} (h : s.Inv) (hacc : AccessEffect a s t) :
    t.Inv := by
  cases hacc with
  | accepted w => exact (h.accept w).congr rfl rfl rfl rfl rfl rfl
  | dropped w _ hb => exact (h.dropCommand hb).congr rfl rfl rfl rfl rfl rfl
  | _ => exact h.congr rfl rfl rfl rfl rfl rfl

/-- A running command has not failed yet: ERR waits for DONE (R12, R25). -/
theorem State.Inv.err_eq_false_of_busy {s : State} (h : s.Inv) (hb : s.status.busy = true) :
    s.status.err = false := by
  rw [Bool.eq_false_iff]
  intro herr
  have hdone := h.err_done herr
  rw [h.busy_not_done hb] at hdone
  cases hdone

/-- A successful completion of a running command keeps the invariant: no error is on record (R26).
-/
theorem State.Inv.finish {s : State} (h : s.Inv) (hb : s.status.busy = true) : (finish s).Inv where
  busy_not_done := nofun
  err_done _ := rfl
  ovr_started _ := .inr rfl
  error_clear _ := h.error_clear (h.err_eq_false_of_busy hb)
  error_produced herr := by
    rw [finish_status, Status.completed_err, h.err_eq_false_of_busy hb] at herr
    cases herr
  unbuilt := h.unbuilt
  bound := h.bound
  complete_table := h.complete_table
  count := h.count

/-- An error completion records a produced pair with the opcode of the latched word (R82). -/
theorem State.Inv.completeError {s : State} (h : s.Inv) (e : CommandError) :
    (completeError e s).Inv where
  busy_not_done := nofun
  err_done _ := rfl
  ovr_started _ := .inr rfl
  error_clear := nofun
  error_produced _ := ⟨e.pair_mem_producedErrors, rfl⟩
  unbuilt := h.unbuilt
  bound := h.bound
  complete_table := h.complete_table
  count := h.count

/-- An allowed bound fits the register SIEVE_N (R4, R17). -/
theorem bound_toNat {N : Nat} (h : N ≤ Config.sieveNMax) : (BitVec.ofNat 64 N).toNat = N := by
  have hmax := sieveNMax_lt
  rw [BitVec.toNat_ofNat, Nat.mod_eq_of_lt (by omega)]

/-- The number of primes found fits the registers RES0 and SIEVE_COUNT (R17, R70). -/
theorem primes_length_toNat {N : Nat} (h : N ≤ Config.sieveNMax) :
    (BitVec.ofNat 64 (linearSieve N).primes.length).toNat = (linearSieve N).primes.length :=
  bound_toNat ((linearSieve_reaches N).2.trans h)

/-- A build replaces the whole sieve state by that of one allowed bound (R70). -/
theorem State.Inv.installTable {s : State} {N : Nat} (h : s.Inv) (h1 : 1 ≤ N)
    (hmax : N ≤ Config.sieveNMax) : (installTable N (linearSieve N) s).Inv where
  busy_not_done := h.busy_not_done
  err_done := h.err_done
  ovr_started := h.ovr_started
  error_clear := h.error_clear
  error_produced := h.error_produced
  unbuilt := nofun
  bound _ := by rw [installTable_sieveN, bound_toNat hmax]; exact ⟨h1, hmax⟩
  complete_table _ := by rw [installTable_sieveN, bound_toNat hmax, installTable_table]
  count _ := by rw [installTable_sieveCount, installTable_table, primes_length_toNat hmax]

/-- Every way a running command completes keeps the invariant (R26, R82). -/
theorem State.Inv.completes {i : Instr} {s t : State} (h : s.Inv) (hb : s.status.busy = true)
    (hc : Completes i s t) : t.Inv := by
  cases hc with
  | result v =>
    have hv : (setRes0 v s).Inv := h.congr rfl rfl rfl rfl rfl rfl
    exact hv.finish hb
  | triple v0 v1 v2 =>
    have hv : (setResults v0 v1 v2 s).Inv := h.congr rfl rfl rfl rfl rfl rfl
    exact hv.finish hb
  | build N _ _ h1 hmax => exact (h.installTable h1 hmax).finish hb
  | failure e => exact h.completeError e

/-- A completion step keeps the invariant, whether the latched word is legal or not. -/
theorem State.Inv.stepEffect {s t : State} (h : s.Inv) (hstep : StepEffect s t) : t.Inv := by
  cases hstep with
  | idle => exact h
  | completed i t hb _ _ hc => exact h.completes hb hc
  | illegal why => exact h.completeError _

/-- Settles O45: reset gives the invariant afresh, and every part of another cycle keeps it. -/
theorem everyStepKeepsTheInvariant : Obligations.EveryStepKeepsTheInvariant := by
  intro s t hs h
  cases hr : s.nextCycle.reset with
  | true =>
    rw [eq_resetBlock_of_step h hr]
    exact resetBlock_inv _ _
  | false =>
    exact (step_inv h).keeps hr (fun a _ x y hacc hx => hx.access hacc)
      (fun _ x y hstep hx => hx.stepEffect hstep) (hs.congr rfl rfl rfl rfl rfl rfl)

end Sys2Proof.Machine
end

section
/-! What every command answers (spec/10_state.md R26, R41): the completion flags, the frame and the
errors of each command (spec/60_exceptions.md R81), the writes of `sieve.build` and of the accessors
(spec/43_sieve.md R70, R73 to R78), and the step that runs the latched command. -/

namespace Sys2Proof.Machine

/-! ### Flags, errors and frame -/

/-- Every completion leaves BUSY = 0, DONE = 1 and PEND = 1 (R26, R82). -/
theorem Completes.flags {i : Instr} {s t : State} (h : Completes i s t) :
    t.status.busy = false ∧ t.status.done = true ∧ t.intr.pend = true := by
  cases h <;> exact ⟨rfl, rfl, rfl⟩

/-- Settles O25: every command completes, and every completion sets the flags. -/
theorem everyCommandAnswersANextState : Obligations.EveryCommandAnswersANextState := by
  intro i s
  obtain ⟨t, ht, hc⟩ := exec_completes i s
  exact ⟨t, ht, hc.flags⟩

/-- A command that turns ERR on raised one of its own errors (R81, R82). -/
theorem Completes.exists_error_of_err_turned_on {i : Instr} {s t : State} (h : Completes i s t)
    (hs : s.status.err = false) (ht : t.status.err = true) :
    ∃ e ∈ possibleErrors i, t = completeError e s := by
  cases h with
  | failure e he => exact ⟨e, he, rfl⟩
  | _ =>
    have herr : s.status.err = true := ht
    simp [hs] at herr

/-- The codes of each command's errors (R80, R81). -/
theorem possibleErrors_codes (i : Instr) : ∀ e ∈ possibleErrors i,
    (i ∈ [Instr.modmul, .modexp] ∧
      (e.cause, e.detail) ∈ [((1 : BitVec 8), (1 : BitVec 8)), (2, 2), (2, 1)]) ∨
    (i ∈ [Instr.modmulU, .modexpU] ∧ (e.cause, e.detail) = (1, 1)) ∨
    (i = .sieveBuild ∧ (e.cause, e.detail) = (2, 3)) ∨
    (i ∈ [Instr.sieveSpf, .sieveExp, .sievePhi, .sieveMu, .sievePrime, .sieveIsprime] ∧
      (e.cause, e.detail) ∈ [((2 : BitVec 8), (4 : BitVec 8)), (2, 5)]) := by
  cases i <;> decide

/-- Settles O27: the error is one the command can raise, and its record holds that error's codes. -/
theorem eachCommandHasItsOwnErrors : Obligations.EachCommandHasItsOwnErrors := by
  intro i s t h hs ht
  obtain ⟨e, he, rfl⟩ := (exec_inv h).exists_error_of_err_turned_on hs ht
  exact possibleErrors_codes i e he

/-- Settles O28: no way to complete writes more than its own registers and the flags. -/
theorem commandsKeepTheirFrame : Obligations.CommandsKeepTheirFrame := by
  intro i s t h
  cases exec_inv h with
  | result v => simp
  | triple v0 v1 v2 hi => simp [hi]
  | build N hi => simp [hi]
  | failure e => simp

/-! ### `sieve.build` and the accessors -/

/-- What the completion of `sieve.build` runs (R70). -/
theorem exec_sieveBuild (s : State) : exec .sieveBuild s =
    settle ((sieveBound s.latch).map fun N => installTable N (linearSieve N) s) s := rfl

/-- An allowed bound passes the check (R70). -/
theorem sieveBound_of_valid {l : Latch} (h1 : 1 ≤ l.a.toNat) (hmax : l.a.toNat ≤ Config.sieveNMax) :
    sieveBound l = .ok l.a.toNat :=
  if_neg (by rw [sieveBoundFails_iff]; omega)

/-- A zero bound, or one above SIEVE_NMAX, fails the check (R70). -/
theorem sieveBound_of_invalid {l : Latch} (h : l.a.toNat = 0 ∨ Config.sieveNMax < l.a.toNat) :
    sieveBound l = .error .sieveBound :=
  if_pos (by rw [sieveBoundFails_iff]; omega)

/-- A build with an allowed bound installs the table of that bound (R70). -/
theorem exec_sieveBuild_of_valid {s : State} (h1 : 1 ≤ s.latch.a.toNat)
    (hmax : s.latch.a.toNat ≤ Config.sieveNMax) :
    exec .sieveBuild s =
      .next (installTable s.latch.a.toNat (linearSieve s.latch.a.toNat) s).afterSuccess := by
  rw [exec_sieveBuild, sieveBound_of_valid h1 hmax]
  rfl

/-- Settles O18: the bound passes the check and the table is installed, or it fails the check. -/
theorem sieveBuildInstallsTheWholeTable : Obligations.SieveBuildInstallsTheWholeTable := by
  refine fun s => ⟨fun h1 hmax => ?installed, fun hfails => ?bound⟩
  case installed =>
    rw [exec_sieveBuild_of_valid h1 hmax, installTable, BitVec.ofNat_toNat, BitVec.setWidth_eq]
    rfl
  case bound =>
    rw [exec_sieveBuild, sieveBound_of_invalid hfails]
    rfl

/-- A listed entry of naturals is what a read gives. -/
theorem enc64_listedNat {arr : SieveArray} {entries : List Nat} {k v : Nat}
    (h : entries[k]? = some v) : enc64 (listedNat arr entries k) = BitVec.ofNat 64 v := by
  rw [listedNat, h, enc64, BitVec.ofInt_natCast]

/-- A listed entry of integers is what a read gives, sign-extended (R76). -/
theorem enc64_listedInt {arr : SieveArray} {entries : List Int} {k : Nat} {v : Int}
    (h : entries[k]? = some v) : enc64 (listedInt arr entries k) = BitVec.ofInt 64 v := by
  rw [listedInt, h, enc64]

/-- The verdict of the table is that of the listed smallest prime factor (R78). -/
theorem tableVerdict_of_listed {t : SieveTable} {k v : Nat} (h : t.spf[k]? = some v) :
    tableVerdict k t = if 1 < k ∧ v = k then 1 else 0 := by
  simp [tableVerdict, sieveRead, listedNat, h]

/-- An accessor over the arrays, within SIEVE_N, writes the value it reads (R72). -/
theorem exec_arrayAccessor_of_within {s : State} {i : Instr} {value : Nat → Word} {v : Word}
    (hexec : exec i s = completeAccessor (arrayLimit s) value s) (hbuilt : s.status.svalid = true)
    (hk : s.latch.a.toNat ≤ s.sieveN.toNat) (hvalue : value s.latch.a.toNat = v) :
    exec i s = .next ({ s with res0 := v } : State).afterSuccess := by
  rw [hexec, completeAccessor_of_within _ hbuilt ((le_arrayLimit_iff s _).mpr hk), hvalue]

/-- Settles O22: within its limit each accessor writes what it reads, and reads the listed entry. -/
theorem accessorsReadOneEntry : Obligations.AccessorsReadOneEntry := by
  refine fun s hbuilt => ⟨fun hk => ⟨fun v hv => ?spf, fun v hv => ?expt, fun v hv => ?phi,
    fun v hv => ?mu, fun v hv => ?isprime⟩, fun hk v hv => ?prime⟩
  case spf => exact exec_arrayAccessor_of_within rfl hbuilt hk (enc64_listedNat hv)
  case expt => exact exec_arrayAccessor_of_within rfl hbuilt hk (enc64_listedNat hv)
  case phi => exact exec_arrayAccessor_of_within rfl hbuilt hk (enc64_listedNat hv)
  case mu => exact exec_arrayAccessor_of_within rfl hbuilt hk (enc64_listedInt hv)
  case isprime => exact exec_arrayAccessor_of_within rfl hbuilt hk (tableVerdict_of_listed hv)
  case prime =>
    rw [exec_sievePrime, completeAccessor_of_within _ hbuilt ((le_primesLimit_iff s _).mpr hk)]
    simp only [sieveRead]
    rw [enc64_listedNat hv]

/-! ### The step that runs the latched command -/

/-- With an empty agenda a running command completes in the step (log 2). -/
theorem step_of_agenda_nil {s : State} (hb : s.status.busy = true) (hs : s.agenda = []) :
    step s = execute s := by
  rw [step, runNext, hs]
  simp [runCycle, ownCycle, completionStep, hb]

/-- Settles O6: both kinds of cycle are the completion of the latched word. -/
theorem stepRunsTheLatchedCommand : Obligations.StepRunsTheLatchedCommand := by
  refine fun s i hb hd => ⟨fun hs => ?_, fun c rest hs hr ha hc => ?_⟩
  · rw [step_of_agenda_nil hb hs, execute_of_decode_ok hd]
  · rw [step_of_completing_cycle hb hs hr ha hc]
    exact execute_of_decode_ok hd

/-- A 64-bit word is its own table word. -/
theorem tableWord_toNat (w : Word) : tableWord 64 w.toNat = w := by
  rw [tableWord, Nat.mod_eq_of_lt w.isLt, BitVec.ofNat_toNat, BitVec.setWidth_eq]

/-- Settles O7: the agenda begins with the block's own cycle, which completes the accepted word. -/
theorem fetchedWordRunsNext : Obligations.FetchedWordRunsNext := by
  intro s i
  rw [State.withFetchWord, tableWord_toNat]
  have hstep : step (latchForNextStep (encode i) s) =
      execute { latchForNextStep (encode i) s with agenda := s.agenda } :=
    step_of_completing_cycle rfl rfl rfl rfl rfl
  rw [hstep]
  exact execute_of_decode_ok (decode_encode i)

end Sys2Proof.Machine
end

section
/-! The outcome of a command is a function of the latch and the sieve state (spec/10_state.md R26,
spec/20_memory.md R32): in two states that agree on these, every command raises the same error or
writes the same values. -/

namespace Sys2Proof.Machine

/-- Two states hold the same latched command and the same sieve state. -/
structure SameInputs (s₁ s₂ : State) : Prop where
  latch : s₁.latch = s₂.latch
  table : s₁.table = s₂.table
  sieveN : s₁.sieveN = s₂.sieveN
  sieveCount : s₁.sieveCount = s₂.sieveCount
  svalid : s₁.status.svalid = s₂.status.svalid

/-- What a successful completion writes; RES1 and RES2 are written by egcd alone (R16, R26). -/
structure CommandWrites where
  res0 : Word
  res1 : Word
  res2 : Word
  sieveN : Word
  sieveCount : Word
  table : SieveTable
  svalid : Bool

/-- The writes of a success of command `i`. -/
def CommandWrites.apply (i : Instr) (w : CommandWrites) (s : State) : State :=
  { s with
    res0 := w.res0
    res1 := if i = .egcd then w.res1 else s.res1
    res2 := if i = .egcd then w.res2 else s.res2
    sieveN := w.sieveN
    sieveCount := w.sieveCount
    table := w.table
    status := { s.status with svalid := w.svalid } }

/-- The outcomes `o₁` and `o₂` of command `i` in two states are the same error or the same writes.
-/
def SameOutcome (i : Instr) (s₁ s₂ : State) (o₁ o₂ : Host.Outcome State Fault Refusal) : Prop :=
  (∃ e, o₁ = .next (completeError e s₁) ∧ o₂ = .next (completeError e s₂)) ∨
    ∃ w : CommandWrites, o₁ = .next (finish (w.apply i s₁)) ∧ o₂ = .next (finish (w.apply i s₂))

/-- Writes of results that keep the sieve state of `s`. -/
def CommandWrites.results (v0 v1 v2 : Word) (s : State) : CommandWrites :=
  ⟨v0, v1, v2, s.sieveN, s.sieveCount, s.table, s.status.svalid⟩

/-- The writes of a build to `N` that found the table `t` (R70). -/
def CommandWrites.ofTable (N : Nat) (t : SieveTable) : CommandWrites where
  res0 := BitVec.ofNat 64 t.primes.length
  res1 := 0
  res2 := 0
  sieveN := BitVec.ofNat 64 N
  sieveCount := BitVec.ofNat 64 t.primes.length
  table := t
  svalid := true

theorem setRes0_eq_apply {i : Instr} (hi : i ≠ .egcd) (v : Word) (s : State) :
    setRes0 v s = (CommandWrites.results v 0 0 s).apply i s := by
  simp [CommandWrites.apply, CommandWrites.results, setRes0, hi]

theorem setResults_eq_apply (v0 v1 v2 : Word) (s : State) :
    setResults v0 v1 v2 s = (CommandWrites.results v0 v1 v2 s).apply .egcd s := rfl

theorem installTable_eq_apply (N : Nat) (t : SieveTable) (s : State) :
    installTable N t s = (CommandWrites.ofTable N t).apply .sieveBuild s := rfl

/-- Writes of results are the same in two states with the same sieve state. -/
theorem SameInputs.results_eq {s₁ s₂ : State} (h : SameInputs s₁ s₂) (v0 v1 v2 : Word) :
    CommandWrites.results v0 v1 v2 s₁ = CommandWrites.results v0 v1 v2 s₂ := by
  rw [CommandWrites.results, h.sieveN, h.sieveCount, h.table, h.svalid, CommandWrites.results]

/-- Successes that write the same RES0 are the same outcome. -/
theorem SameInputs.finish_setRes0 {i : Instr} {s₁ s₂ : State} (h : SameInputs s₁ s₂)
    (hi : i ≠ .egcd) {v₁ v₂ : Word} (hv : v₁ = v₂) :
    SameOutcome i s₁ s₂ (.next (finish (setRes0 v₁ s₁))) (.next (finish (setRes0 v₂ s₂))) := by
  refine .inr ⟨.results v₁ 0 0 s₁, ?_, ?_⟩
  · rw [← setRes0_eq_apply hi]
  · rw [h.results_eq, ← setRes0_eq_apply hi, hv]

/-- A completion whose check and whose value are the same in both states has the same outcome. -/
theorem SameInputs.settle_setRes0 {α : Type} {i : Instr} {s₁ s₂ : State} (h : SameInputs s₁ s₂)
    (hi : i ≠ .egcd) (check : Except CommandError α) (value : α → Word) :
    SameOutcome i s₁ s₂ (settle (check.map fun p => setRes0 (value p) s₁) s₁)
      (settle (check.map fun p => setRes0 (value p) s₂) s₂) := by
  cases check with
  | error e => exact .inl ⟨e, rfl, rfl⟩
  | ok p => exact h.finish_setRes0 hi rfl

/-- The index check reads the latch and SVALID alone (R72). -/
theorem SameInputs.sieveIndex_eq {s₁ s₂ : State} (h : SameInputs s₁ s₂) (limit : Int) :
    sieveIndex s₁ limit = sieveIndex s₂ limit := by
  rw [sieveIndex, h.svalid, h.latch, sieveIndex]

/-- An accessor with the same limit and the same values has the same outcome (R72). -/
theorem SameInputs.completeAccessor {i : Instr} {s₁ s₂ : State} (h : SameInputs s₁ s₂)
    (hi : i ≠ .egcd) {limit₁ limit₂ : Int} {value₁ value₂ : Nat → Word}
    (hlimit : limit₁ = limit₂) (hvalue : value₁ = value₂) :
    SameOutcome i s₁ s₂ (completeAccessor limit₁ value₁ s₁)
      (completeAccessor limit₂ value₂ s₂) := by
  subst hlimit hvalue
  rw [Machine.completeAccessor, h.sieveIndex_eq]
  exact h.settle_setRes0 hi _ _

theorem SameInputs.arrayLimit_eq {s₁ s₂ : State} (h : SameInputs s₁ s₂) :
    arrayLimit s₁ = arrayLimit s₂ := by
  rw [arrayLimit, h.sieveN, arrayLimit]

theorem SameInputs.primesLimit_eq {s₁ s₂ : State} (h : SameInputs s₁ s₂) :
    primesLimit s₁ = primesLimit s₂ := by
  rw [primesLimit, h.sieveCount, primesLimit]

/-- Every command has the same outcome in two states with the same inputs (R26). -/
theorem SameInputs.exec {s₁ s₂ : State} (h : SameInputs s₁ s₂) (i : Instr) :
    SameOutcome i s₁ s₂ (exec i s₁) (exec i s₂) := by
  cases i with
  | egcd =>
    refine .inr ⟨.results _ _ _ s₁, rfl, ?_⟩
    rw [h.results_eq, h.latch, ← setResults_eq_apply]
    rfl
  | modmul =>
    rw [exec_modmul, exec_modmul, completeModmul, h.latch]
    exact h.settle_setRes0 (by decide) _ _
  | modmulU =>
    rw [exec_modmulU, exec_modmulU, completeModmul, h.latch]
    exact h.settle_setRes0 (by decide) _ _
  | modexp =>
    rw [exec_modexp, exec_modexp, completeModexp, h.latch]
    exact h.settle_setRes0 (by decide) _ _
  | modexpU =>
    rw [exec_modexpU, exec_modexpU, completeModexp, h.latch]
    exact h.settle_setRes0 (by decide) _ _
  | isprime =>
    exact h.finish_setRes0 (i := .isprime) (by decide) (by rw [h.latch])
  | isprimeU =>
    exact h.finish_setRes0 (i := .isprimeU) (by decide) (by rw [h.latch])
  | sieveBuild =>
    rw [exec_sieveBuild, exec_sieveBuild, h.latch]
    simp only [installTable_eq_apply]
    cases sieveBound s₂.latch with
    | error e => exact .inl ⟨e, rfl, rfl⟩
    | ok N => exact .inr ⟨.ofTable N (linearSieve N), rfl, rfl⟩
  | sievePrime =>
    exact h.completeAccessor (by decide) h.primesLimit_eq (by rw [h.table])
  | sieveSpf => exact h.completeAccessor (by decide) h.arrayLimit_eq (by rw [h.table])
  | sieveExp => exact h.completeAccessor (by decide) h.arrayLimit_eq (by rw [h.table])
  | sievePhi => exact h.completeAccessor (by decide) h.arrayLimit_eq (by rw [h.table])
  | sieveMu => exact h.completeAccessor (by decide) h.arrayLimit_eq (by rw [h.table])
  | sieveIsprime => exact h.completeAccessor (by decide) h.arrayLimit_eq (by rw [h.table])

/-- Settles O46: a legal command has the same outcome in both states, and an illegal word fails in
both with the detail of the check it fails. -/
theorem outcomeDependsOnlyOnLatchAndTable : Obligations.OutcomeDependsOnlyOnLatchAndTable := by
  intro s₁ s₂ hlatch htable hn hcount hvalid
  have h : SameInputs s₁ s₂ := ⟨hlatch, htable, hn, hcount, hvalid⟩
  refine ⟨fun i => ?legal, fun why hd => ?illegal⟩
  case legal =>
    rcases h.exec i with ⟨e, h1, h2⟩ | ⟨w, h1, h2⟩
    · exact .inl ⟨e.cause, e.detail, h1, h2⟩
    · exact .inr ⟨w.res0, w.res1, w.res2, w.sieveN, w.sieveCount, w.table, w.svalid, h1, h2⟩
  case illegal =>
    exact ⟨_, execute_of_decode_error hd, execute_of_decode_error (hlatch ▸ hd)⟩

end Sys2Proof.Machine
end

section
/-! What a bus cycle can change (spec/10_state.md R15, R16, R19, spec/20_memory.md R32): operand
registers and IE by the host's writes, results and sieve state by completions; and when a step stops
(spec/20_memory.md R27, log 5). -/

namespace Sys2Proof.Machine

/-! ### Results and the sieve state -/

/-- The result registers (R16). -/
def State.results (s : State) : Word × Word × Word := (s.res0, s.res1, s.res2)

/-- The sieve table and its registers (R17, R21). -/
def State.sieve (s : State) : SieveTable × Word × Word × Bool :=
  (s.table, s.sieveN, s.sieveCount, s.status.svalid)

/-- No host access writes a result register or the sieve state (R16, R32). -/
theorem AccessEffect.results_and_sieve_eq {a : Access} {s t : State} (h : AccessEffect a s t) :
    t.results = s.results ∧ t.sieve = s.sieve := by
  cases h <;> exact ⟨rfl, rfl⟩

/-- The same for a cycle's access, if it presents one. -/
theorem LateAccess.results_and_sieve_eq {c : Cycle} {s t : State} (h : LateAccess c s t) :
    t.results = s.results ∧ t.sieve = s.sieve := by
  rcases h with rfl | ⟨a, _, hacc⟩
  · exact ⟨rfl, rfl⟩
  · exact hacc.results_and_sieve_eq

/-- Only a CMD write changes BUSY or the latch (R25, R97). -/
theorem AccessEffect.busy_latch_eq_or_cmdWrite {a : Access} {s t : State}
    (h : AccessEffect a s t) :
    (t.status.busy = s.status.busy ∧ t.latch = s.latch) ∨ ∃ w, a = .write 0x08 8 w := by
  cases h with
  | accepted w ha => exact .inr ⟨w, ha⟩
  | _ => exact .inl ⟨rfl, rfl⟩

/-- What comes before a cycle's completion leaves the running command as it is (R86 (2)). -/
theorem EarlyAccess.busy_latch_eq {c : Cycle} {s u : State} (h : EarlyAccess c s u) :
    u.status.busy = s.status.busy ∧ u.latch = s.latch := by
  rcases h with rfl | ⟨a, _, ho, hacc⟩
  · exact ⟨rfl, rfl⟩
  · rcases hacc.busy_latch_eq_or_cmdWrite with hkept | ⟨w, rfl⟩
    · exact hkept
    · simp [completionOrderedFirst_cmdWrite] at ho

/-- A completion step changes results only when a command is running (R24). -/
theorem StepEffect.results_eq_or_busy {s t : State} (h : StepEffect s t) :
    t.results = s.results ∨ s.status.busy = true := by
  cases h with
  | idle => exact .inl rfl
  | completed i t hb => exact .inr hb
  | illegal why hb => exact .inr hb

/-- A completion step changes the sieve state only by a build, which leaves SVALID = 1 (R32, R70).
-/
theorem StepEffect.sieve_eq_or_build {s t : State} (h : StepEffect s t) :
    t.sieve = s.sieve ∨ (s.status.busy = true ∧ decode s.latch.w = .ok .sieveBuild ∧
      t.status.svalid = true) := by
  cases h with
  | idle => exact .inl rfl
  | completed i t hb hd _ hc =>
    cases hc with
    | build N hi => exact .inr ⟨hb, hi ▸ hd, rfl⟩
    | _ => exact .inl rfl
  | illegal => exact .inl rfl

/-- Without reset, a cycle changes results only by completing a running command (R16). -/
theorem CycleEffect.results_eq_or_completes {c : Cycle} {s t : State} (h : CycleEffect c s t)
    (hr : c.reset = false) :
    t.results = s.results ∨ (s.status.busy = true ∧ c.completes = true) := by
  obtain ⟨u, v, hearly, hcomp, hlate⟩ := h.parts hr
  have hu : u.results = s.results := hearly.lateAccess.results_and_sieve_eq.1
  have ht : t.results = v.results := hlate.results_and_sieve_eq.1
  rcases hcomp with rfl | ⟨hc, hstep⟩
  · exact .inl (ht.trans hu)
  · rcases hstep.results_eq_or_busy with hv | hb
    · exact .inl (ht.trans (hv.trans hu))
    · exact .inr ⟨hearly.busy_latch_eq.1 ▸ hb, hc⟩

/-- Without reset, a cycle changes the sieve state only by completing a build (R32, R70). -/
theorem CycleEffect.sieve_eq_or_build {c : Cycle} {s t : State} (h : CycleEffect c s t)
    (hr : c.reset = false) :
    t.sieve = s.sieve ∨ (s.status.busy = true ∧ c.completes = true ∧
      decode s.latch.w = .ok .sieveBuild ∧ t.status.svalid = true) := by
  obtain ⟨u, v, hearly, hcomp, hlate⟩ := h.parts hr
  have hu : u.sieve = s.sieve := hearly.lateAccess.results_and_sieve_eq.2
  have ht : t.sieve = v.sieve := hlate.results_and_sieve_eq.2
  rcases hcomp with rfl | ⟨hc, hstep⟩
  · exact .inl (ht.trans hu)
  · rcases hstep.sieve_eq_or_build with hv | ⟨hb, hd, hvalid⟩
    · exact .inl (ht.trans (hv.trans hu))
    · have htvalid : t.status.svalid = v.status.svalid := congrArg (·.2.2.2) ht
      obtain ⟨hbusy, hlatch⟩ := hearly.busy_latch_eq
      exact .inr ⟨hbusy ▸ hb, hc, hlatch ▸ hd, htvalid.trans hvalid⟩

/-- Settles O40: a cycle without reset and without such a completion keeps both. -/
theorem resultsChangeOnlyAtCompletion : Obligations.ResultsChangeOnlyAtCompletion := by
  intro s t h
  cases hr : s.nextCycle.reset with
  | true => exact ⟨fun _ => .inl rfl, fun _ => .inl rfl⟩
  | false =>
    exact ⟨fun hne => .inr (((step_inv h).results_eq_or_completes hr).resolve_left hne),
      fun hne => .inr (((step_inv h).sieve_eq_or_build hr).resolve_left hne)⟩

/-- Settles O42: a build sets SVALID, and nothing else changes it. -/
theorem tableStaysValidUntilReset : Obligations.TableStaysValidUntilReset := by
  intro s t h hs hr
  rcases (step_inv h).sieve_eq_or_build hr with hkept | ⟨_, _, _, hvalid⟩
  · have ht : t.status.svalid = s.status.svalid := congrArg (·.2.2.2) hkept
    exact ht.trans hs
  · exact hvalid

/-! ### Operand registers and IE -/

/-- Where `x` differs from `s` in an operand register or in IE, the cycle presents the write that
made it so (R15, R19). -/
structure ChangedByHost (c : Cycle) (s x : State) : Prop where
  opa : x.opa ≠ s.opa → c.access = some (.write 0x28 8 x.opa)
  opb : x.opb ≠ s.opb → c.access = some (.write 0x30 8 x.opb)
  opm : x.opm ≠ s.opm → c.access = some (.write 0x38 8 x.opm)
  ie : x.intr.ie ≠ s.intr.ie → ∃ v : Word, c.access = some (.write 0x20 8 v)

/-- The cycle's access changes these registers by its own write (R15, R30). -/
theorem ChangedByHost.access {c : Cycle} {a : Access} {s x y : State} (h : ChangedByHost c s x)
    (ha : c.access = some a) (hacc : AccessEffect a x y) : ChangedByHost c s y := by
  obtain ⟨hopa, hopb, hopm, hie⟩ := h
  cases hacc with
  | intr v hv => exact ⟨hopa, hopb, hopm, fun _ => ⟨v, hv ▸ ha⟩⟩
  | opa v hv => exact ⟨fun _ => hv ▸ ha, hopb, hopm, hie⟩
  | opb v hv => exact ⟨hopa, fun _ => hv ▸ ha, hopm, hie⟩
  | opm v hv => exact ⟨hopa, hopb, fun _ => hv ▸ ha, hie⟩
  | _ => exact ⟨hopa, hopb, hopm, hie⟩

/-- A completion step writes neither an operand register nor IE (R26, R82). -/
theorem StepEffect.operands_eq {s t : State} (h : StepEffect s t) :
    t.opa = s.opa ∧ t.opb = s.opb ∧ t.opm = s.opm ∧ t.intr.ie = s.intr.ie := by
  cases h with
  | idle => exact ⟨rfl, rfl, rfl, rfl⟩
  | completed i t _ _ _ hc => cases hc <;> exact ⟨rfl, rfl, rfl, rfl⟩
  | illegal => exact ⟨rfl, rfl, rfl, rfl⟩

theorem ChangedByHost.stepEffect {c : Cycle} {s x y : State} (h : ChangedByHost c s x)
    (hstep : StepEffect x y) : ChangedByHost c s y := by
  obtain ⟨hopa, hopb, hopm, hie⟩ := hstep.operands_eq
  constructor <;> simp only [hopa, hopb, hopm, hie]
  exacts [h.opa, h.opb, h.opm, h.ie]

/-- Settles O41: every part of the cycle keeps "changed by the host's write alone". -/
theorem operandsChangeOnlyByHostWrites : Obligations.OperandsChangeOnlyByHostWrites := by
  intro s t h hr
  have hchanged : ChangedByHost s.nextCycle s t :=
    (step_inv h).keeps hr (fun a ha x y hacc hx => hx.access ha hacc)
      (fun _ x y hstep hx => hx.stepEffect hstep)
      ⟨absurd rfl, absurd rfl, absurd rfl, absurd rfl⟩
  exact ⟨hchanged.opa, hchanged.opb, hchanged.opm, hchanged.ie⟩

/-! ### When a step stops -/

/-- A regular cycle always answers a next state (R27, R93). -/
theorem runCycle_next_of_regular {c : Cycle} (h : c.regular) (s : State) :
    ∃ t, runCycle c s = .next t := by
  obtain ⟨hr, hwindow⟩ := h
  obtain ⟨u, hu, _⟩ := completionStep_next s
  rcases runCycle_cases c s with ⟨hr', _⟩ | ⟨_, _, _, he⟩ | ⟨_, _, _, he⟩ |
    ⟨_, a, ha, ⟨_, he⟩ | ⟨_, _, he⟩ | ⟨_, _, he⟩⟩
  · simp [hr] at hr'
  · exact ⟨s, he⟩
  · exact ⟨u, he.trans hu⟩
  · obtain ⟨t, ht, _⟩ := hostAccess_next (hwindow a ha) s
    exact ⟨t, he.trans ht⟩
  · obtain ⟨t, ht, _⟩ := hostAccess_next (hwindow a ha) u
    exact ⟨t, by rw [he, hu, andThen, ht]⟩
  · obtain ⟨v, hv, _⟩ := hostAccess_next (hwindow a ha) s
    obtain ⟨t, ht, _⟩ := completionStep_next v
    exact ⟨t, by rw [he, hv, andThen, ht]⟩

/-- An access outside the window stops the cycle, whatever completes in it (log 5). -/
theorem runCycle_of_outside {c : Cycle} {a : Access} (hr : c.reset = false)
    (ha : c.access = some a) (hwindow : a.inWindow = false) (s : State) :
    runCycle c s = .fault .outsideWindow := by
  have hfault (x : State) : hostAccess a x = .fault .outsideWindow := by
    simp [hostAccess, hwindow]
  obtain ⟨u, hu, _⟩ := completionStep_next s
  simp [runCycle, hr, ha, hfault, hu, andThen]

/-- Outside the window is below offset 0 or above 0xFF (R27). -/
theorem inWindow_eq_false_iff (a : Access) :
    a.inWindow = false ↔ a.offset < 0 ∨ 0xFF < a.offset := by
  rw [← Bool.not_eq_true, inWindow_iff]
  omega

/-- A cycle is regular, asserts reset, or presents an access outside the window. -/
theorem Cycle.regular_or (c : Cycle) : c.regular ∨ c.reset = true ∨
    (c.reset = false ∧ ∃ a, c.access = some a ∧ a.inWindow = false) := by
  by_cases h : c.regular
  · exact .inl h
  · simp only [Cycle.regular, not_and, not_forall, Bool.not_eq_true] at h
    cases hr : c.reset with
    | true => exact .inr (.inl rfl)
    | false =>
      obtain ⟨a, ha, hwindow⟩ := h hr
      exact .inr (.inr ⟨rfl, a, ha, hwindow⟩)

/-- Settles O35: a regular cycle and a reset answer a next state, any other cycle a fault. -/
theorem stepStopsOnlyOutsideTheWindow : Obligations.StepStopsOnlyOutsideTheWindow := by
  intro s
  simp only [← inWindow_eq_false_iff]
  rw [step_eq_runCycle]
  rcases s.nextCycle.regular_or with hregular | hr | ⟨hr, a, ha, hwindow⟩
  · obtain ⟨t, ht⟩ := runCycle_next_of_regular hregular { s with agenda := s.agenda.tail }
    rw [ht]
    refine ⟨⟨nofun, fun ⟨_, a, ha, hout⟩ => ?_⟩, nofun⟩
    simp [hregular.2 a ha] at hout
  · rw [runCycle_of_reset hr]
    exact ⟨⟨nofun, fun ⟨hr', _⟩ => by simp [hr] at hr'⟩, nofun⟩
  · rw [runCycle_of_outside hr ha hwindow]
    exact ⟨⟨fun _ => ⟨hr, a, ha, hwindow⟩, fun _ => ⟨_, rfl⟩⟩, nofun⟩

end Sys2Proof.Machine
end

section
/-! The register window (spec/20_memory.md R27 to R30): reads, ignored and refused accesses, and the
writes that take effect at once, in a cycle without reset in which no command completes; and events
that fall together (spec/60_exceptions.md R86). -/

namespace Sys2Proof.Machine

/-! ### A cycle that presents an access alone -/

/-- With no reset and nothing to complete, a cycle with an access is that access. -/
theorem runCycle_of_access {c : Cycle} {a : Access} {s : State} (hr : c.reset = false)
    (hc : c.completes = false ∨ s.status.busy = false) (ha : c.access = some a)
    (hwindow : a.inWindow = true) : runCycle c s = hostAccess a s := by
  rcases runCycle_cases c s with ⟨hr', _⟩ | ⟨_, hn, _⟩ | ⟨_, hn, _⟩ |
    ⟨_, b, hb, ⟨_, he⟩ | ⟨hc', _, he⟩ | ⟨hc', ho, he⟩⟩
  · simp [hr] at hr'
  · simp [ha] at hn
  · simp [ha] at hn
  all_goals obtain rfl : a = b := Option.some.inj (ha.symm.trans hb)
  · exact he
  · have hidle : s.status.busy = false := hc.resolve_left (by simp [hc'])
    rw [he, completionStep_of_idle hidle, andThen]
  · have hidle : s.status.busy = false := hc.resolve_left (by simp [hc'])
    obtain ⟨t, ht, hacc⟩ := hostAccess_next hwindow s
    have hbusy : t.status.busy = s.status.busy := by
      rcases hacc.busy_eq_or_cmdWrite with hb | ⟨w, rfl⟩
      · exact hb
      · simp [completionOrderedFirst_cmdWrite] at ho
    rw [he, ht, andThen, completionStep_of_idle (hbusy.trans hidle)]

/-- The same for a step, by the first cycle of the agenda. -/
theorem step_of_access {s : State} {c : Cycle} {rest : List Cycle} {a : Access}
    (hs : s.agenda = c :: rest) (hr : c.reset = false)
    (hc : c.completes = false ∨ s.status.busy = false) (ha : c.access = some a)
    (hwindow : a.inWindow = true) : step s = hostAccess a { s with agenda := rest } := by
  rw [step_of_agenda_cons hs]
  exact runCycle_of_access hr hc ha hwindow

/-- An access inside the window that is not admitted is refused with a bus error (R28). -/
theorem hostAccess_of_refused {a : Access} (hwindow : a.inWindow = true) (h : a.admitted = false)
    (s : State) : hostAccess a s = .next { s with response := .busError } := by
  simp [hostAccess, hwindow, h]

/-- An access at an admitted offset is performed (R28). -/
theorem hostAccess_of_admitted {a : Access} (hwindow : a.inWindow = true) (h : a.admitted = true)
    (s : State) : hostAccess a s = .next (performAccess a s) := by
  simp [hostAccess, hwindow, h]

/-- An admitted offset, with 8 bytes, lies in the window and passes the checks of R28. -/
theorem admittedOffset.inWindow_and_admitted {a : Access} (h : admittedOffset a.offset)
    (hsize : a.size = 8) : a.inWindow = true ∧ a.admitted = true := by
  obtain ⟨h0, hmax, h8⟩ := h
  exact ⟨(inWindow_iff a).mpr ⟨h0, by omega⟩, (admitted_iff a).mpr ⟨hsize, h8⟩⟩

/-! ### Writes -/

/-- Settles O31: each of the four writes is admitted, and its write action is the register's own. -/
theorem operandAndInterruptWritesTakeEffectAtOnce :
    Obligations.OperandAndInterruptWritesTakeEffectAtOnce := by
  intro s c rest v hs hr hc
  exact ⟨fun ha => (step_of_access hs hr hc ha rfl).trans rfl,
    fun ha => (step_of_access hs hr hc ha rfl).trans rfl,
    fun ha => (step_of_access hs hr hc ha rfl).trans rfl,
    fun ha => (step_of_access hs hr hc ha rfl).trans rfl⟩

/-- A write at any offset but those of CMD, INTR, OPA, OPB and OPM is ignored (R30). -/
theorem writeOffset_of_ignored {o : Int} (h0 : 0 ≤ o)
    (ho : o ∉ [(0x08 : Int), 0x20, 0x28, 0x30, 0x38]) (v : Word) (s : State) :
    writeOffset o v s = s := by
  simp only [List.mem_cons, List.not_mem_nil, or_false, not_or] at ho
  obtain ⟨h08, h20, h28, h30, h38⟩ := ho
  rcases writeOffset_cases h0 v s with ⟨h, _⟩ | ⟨h, _⟩ | ⟨h, _⟩ | ⟨h, _⟩ | ⟨h, _⟩ | ⟨h, _⟩ | ⟨_, h⟩
  exacts [absurd h h08, absurd h h08, absurd h h20, absurd h h28, absurd h h30, absurd h h38, h]

/-- Settles O32: the access is admitted, and its write action leaves the state alone. -/
theorem readOnlyAndReservedWritesAreIgnored : Obligations.ReadOnlyAndReservedWritesAreIgnored := by
  intro s c rest o v hs hr hc hoff ho ha
  obtain ⟨hwindow, hadmitted⟩ :=
    admittedOffset.inWindow_and_admitted (a := .write o 8 v) hoff rfl
  rw [step_of_access hs hr hc ha hwindow, hostAccess_of_admitted hwindow hadmitted, performAccess,
    writeOffset_of_ignored hoff.1 ho]

/-- Settles O34: the access is inside the window and not admitted. -/
theorem refusedAccessChangesNoRegister : Obligations.RefusedAccessChangesNoRegister := by
  intro s c rest a hs hr hc ha h0 hmax hbad
  have hwindow : a.inWindow = true := (inWindow_iff a).mpr ⟨h0, hmax⟩
  have hrefused : a.admitted = false := by
    rw [← Bool.not_eq_true, admitted_iff]
    omega
  rw [step_of_access hs hr hc ha hwindow, hostAccess_of_refused hwindow hrefused]

/-! ### Reads -/

/-- A read at a register's offset returns what the register reads as (R30). -/
theorem readOffset_offset (r : Reg) (s : State) : readOffset r.offset s = readReg r s := by
  rw [readOffset, regAt_offset]

/-- A read of a reserved offset returns 0 (R9, R30). -/
theorem readOffset_of_reserved {o : Int} (h : 0x70 ≤ o) (s : State) : readOffset o s = 0 := by
  rw [readOffset]
  cases hreg : regAt o with
  | none => rfl
  | some r =>
    have hoffset : o = r.offset := offset_of_regAt (by omega) hreg
    have hlast : r.offset ≤ 0x68 := by cases r <;> decide
    omega

/-- PARAM reads as SIEVE_NMAX (R18). -/
theorem paramWord_toNat : paramWord.toNat = Config.sieveNMax := bound_toNat le_rfl

/-- Settles O33: the access is admitted, and the value is what the register at its offset reads as.
-/
theorem readsReturnTheRegisterAndChangeNothing :
    Obligations.ReadsReturnTheRegisterAndChangeNothing := by
  intro s c rest o hs hr hc hoff ha
  obtain ⟨hwindow, hadmitted⟩ := admittedOffset.inWindow_and_admitted (a := .read o 8) hoff rfl
  refine ⟨readOffset o { s with agenda := rest }, ?step, ?values⟩
  case step =>
    rw [step_of_access hs hr hc ha hwindow, hostAccess_of_admitted hwindow hadmitted, performAccess]
  case values =>
    have hread (r : Reg) : readOffset r.offset { s with agenda := rest } =
        readReg r { s with agenda := rest } := readOffset_offset r _
    refine ⟨?id, ?cmd, ?status, ?error, ?intr, ?opa, ?opb, ?opm, ?res0, ?res1, ?res2, ?sieveN,
      ?sieveCount, ?param, fun h => readOffset_of_reserved h _⟩ <;> rintro rfl
    case id => exact hread .id
    case cmd => exact hread .cmd
    case status => exact (congrArg BitVec.toNat (hread .status)).trans s.status.word_toNat
    case error => exact (congrArg BitVec.toNat (hread .error)).trans s.error.word_toNat
    case intr => exact (congrArg BitVec.toNat (hread .intr)).trans s.intr.word_toNat
    case opa => exact hread .opa
    case opb => exact hread .opb
    case opm => exact hread .opm
    case res0 => exact hread .res0
    case res1 => exact hread .res1
    case res2 => exact hread .res2
    case sieveN => exact hread .sieveN
    case sieveCount => exact hread .sieveCount
    case param =>
      have hparam : (readOffset 0x68 { s with agenda := rest }).toNat = Config.sieveNMax :=
        (congrArg BitVec.toNat (hread .param)).trans paramWord_toNat
      rw [hparam]
      exact ⟨rfl, thirty_le_sieveNMax, sieveNMax_lt⟩

/-- Settles O38: each register of the reset state, evaluated. -/
theorem resetStateHasTheSpecifiedValues : Obligations.ResetStateHasTheSpecifiedValues := by
  unfold Obligations.ResetStateHasTheSpecifiedValues
  decide

/-! ### Events that fall together (R86) -/

/-- INTR and the response are no inputs of a command. -/
theorem sameInputs_of_intr_response (s : State) (f : Intr) (r : BusResponse) :
    SameInputs s { s with intr := f, response := r } := ⟨rfl, rfl, rfl, rfl, rfl⟩

/-- A completion after a change of INTR and the response leaves what it leaves without the change,
but for the changed IE and response; PEND is 1 (R86 (1)). -/
theorem execute_of_intr_response {s u : State} (h : execute s = .next u) (f : Intr)
    (r : BusResponse) : execute { s with intr := f, response := r } =
      .next { u with intr := ⟨true, f.ie⟩, response := r } := by
  cases hd : decode s.latch.w with
  | error why =>
    rw [execute_of_decode_error hd] at h
    cases h
    exact execute_of_decode_error hd
  | ok i =>
    have hd' : decode ({ s with intr := f, response := r } : State).latch.w = .ok i := hd
    rw [execute_of_decode_ok hd] at h
    rw [execute_of_decode_ok hd']
    rcases (sameInputs_of_intr_response s f r).exec i with ⟨e, h1, h2⟩ | ⟨w, h1, h2⟩
    · cases h1.symm.trans h
      exact h2
    · cases h1.symm.trans h
      exact h2

/-- A completion of a running command: the flags it leaves, and the operand registers it keeps. -/
theorem exists_execute_next {s : State} (hb : s.status.busy = true) :
    ∃ u, execute s = .next u ∧ (u.status.busy = false ∧ u.status.done = true ∧ u.intr.pend = true) ∧
      StepEffect s u := by
  cases hd : decode s.latch.w with
  | error why =>
    exact ⟨_, execute_of_decode_error hd, ⟨rfl, rfl, rfl⟩, .illegal why hb hd⟩
  | ok i =>
    obtain ⟨u, hu, hcompletes⟩ := exec_completes i s
    exact ⟨u, (execute_of_decode_ok hd).trans hu, hcompletes.flags,
      .completed i u hb hd hu hcompletes⟩

/-- While a command runs, the completion step is its execution (R24, R26). -/
theorem completionStep_of_busy {s : State} (hb : s.status.busy = true) :
    completionStep s = execute s := if_pos hb

/-- An INTR write together with a completion: the write comes first, so PEND stays 1 (R86 (1)). -/
theorem runCycle_intrWrite_of_completes {c : Cycle} {v : Word} {s u : State} (hr : c.reset = false)
    (hc : c.completes = true) (ha : c.access = some (.write 0x20 8 v)) (hb : s.status.busy = true)
    (hu : execute s = .next u) :
    runCycle c s = .next { u with intr := ⟨true, v.getLsbD 1⟩, response := .written } := by
  have horder : runCycle c s = andThen (hostAccess (.write 0x20 8 v) s) completionStep := by
    have ho : completionOrderedFirst c (.write 0x20 8 v) = false := rfl
    simp [runCycle, hr, hc, ha, ho]
  have hwrite : hostAccess (.write 0x20 8 v) s =
      .next { s with intr := s.intr.hostWrite v, response := .written } := rfl
  rw [horder, hwrite, andThen, completionStep_of_busy (by exact hb), execute_of_intr_response hu]
  rfl

/-- A CMD write together with a completion: the completion comes first, and the word is accepted
with the operand registers as they were (R86 (2)). -/
theorem runCycle_cmdWrite_of_completes {c : Cycle} {w : Word} {s u : State} (hr : c.reset = false)
    (hc : c.completes = true) (ha : c.access = some (.write 0x08 8 w)) (hb : s.status.busy = true)
    (hu : execute s = .next u) (hidle : u.status.busy = false) (heffect : StepEffect s u) :
    runCycle c s = .next { u with
      latch := ⟨w, s.opa, s.opb, s.opm⟩
      status := ⟨true, false, false, u.status.svalid, false⟩
      error := ⟨0, 0, 0⟩
      response := .written } := by
  obtain ⟨hopa, hopb, hopm, _⟩ := heffect.operands_eq
  rw [runCycle_cmdWrite hr ha, if_pos hc, completionStep_of_busy hb, hu, andThen,
    hostAccess_cmdWrite, writeCmd_of_idle hidle, accept, hopa, hopb, hopm]
  rfl

/-- Settles O36: `u` is the completion alone; the INTR write comes before it and the CMD write after
it, in a block that is then idle; a reset drops both. -/
theorem simultaneousEventsAreOrdered : Obligations.SimultaneousEventsAreOrdered := by
  refine fun s c rest hs => ⟨fun hr hc hb => ?together, fun hr => ?reset⟩
  case together =>
    obtain ⟨u, hu, ⟨hidle, hdone, hpend⟩, heffect⟩ :=
      exists_execute_next (s := { s with agenda := rest }) hb
    refine ⟨u, ?alone, hidle, hdone, hpend, fun v ha => ?intr, fun w ha => ?cmd⟩
    case alone =>
      have hstep : step { s with agenda := { c with access := none } :: rest } =
          execute { s with agenda := rest } :=
        step_of_completing_cycle (s := { s with agenda := { c with access := none } :: rest })
          (c := { c with access := none }) hb rfl hr rfl hc
      exact hstep.trans hu
    case intr =>
      exact (step_of_agenda_cons hs).trans (runCycle_intrWrite_of_completes hr hc ha hb hu)
    case cmd =>
      exact (step_of_agenda_cons hs).trans
        (runCycle_cmdWrite_of_completes hr hc ha hb hu hidle heffect)
  case reset =>
    obtain ⟨t, hstep, hopa, hopb, hopm, h0, h1, h2, hstatus, herror, hintr, _, hn, hcount, _⟩ :=
      resetCycleGivesTheResetValues s c rest hs hr
    exact ⟨t, hstep, hopa, hopb, hopm, h0, h1, h2, hstatus, hintr, herror, hn, hcount⟩

end Sys2Proof.Machine
end

section
/-! Latency (spec/70_reset_and_hazards.md R98 to R101): what a running command will leave behind is
fixed by its accept. No access made while it runs changes it, and once the agenda is used up it has
been left behind. -/

namespace Sys2Proof.Machine

/-! ### What a command leaves behind -/

/-- The registers a running command reads or will write: the latch, the results, the error on record
and the sieve state. -/
structure CommandView where
  latch : Latch
  res0 : Word
  res1 : Word
  res2 : Word
  error : ErrorRecord
  err : Bool
  table : SieveTable
  sieveN : Word
  sieveCount : Word
  svalid : Bool

/-- A state as its command sees it. -/
def State.view (s : State) : CommandView where
  latch := s.latch
  res0 := s.res0
  res1 := s.res1
  res2 := s.res2
  error := s.error
  err := s.status.err
  table := s.table
  sieveN := s.sieveN
  sieveCount := s.sieveCount
  svalid := s.status.svalid

/-- The view after the running command's completion, or the view itself while none runs. -/
def State.settledView (s : State) : CommandView :=
  match completionStep s with
  | .next t => t.view
  | .fault _ => s.view
  | .refused _ => s.view

theorem settledView_of_completionStep {s t : State} (h : completionStep s = .next t) :
    s.settledView = t.view := by
  rw [State.settledView, h]

theorem settledView_of_idle {s : State} (h : s.status.busy = false) : s.settledView = s.view :=
  settledView_of_completionStep (completionStep_of_idle h)

/-- States with one view hold the same inputs. -/
theorem sameInputs_of_view_eq {s₁ s₂ : State} (h : s₁.view = s₂.view) : SameInputs s₁ s₂ where
  latch := congrArg CommandView.latch h
  table := congrArg CommandView.table h
  sieveN := congrArg CommandView.sieveN h
  sieveCount := congrArg CommandView.sieveCount h
  svalid := congrArg CommandView.svalid h

/-- An error completion changes the view by its record and ERR (R82). -/
theorem completeError_view (e : CommandError) (s : State) : (completeError e s).view =
    { s.view with error := errorRecord e s.view.latch, err := true } := rfl

/-- A success changes the view by its writes (R26). -/
theorem finish_apply_view (i : Instr) (w : CommandWrites) (s : State) :
    (finish (w.apply i s)).view = { s.view with
      res0 := w.res0
      res1 := if i = .egcd then w.res1 else s.view.res1
      res2 := if i = .egcd then w.res2 else s.view.res2
      sieveN := w.sieveN
      sieveCount := w.sieveCount
      table := w.table
      svalid := w.svalid } := rfl

/-- The execution of the latched word takes states with one view to states with one view (R26). -/
theorem execute_view_eq {s₁ s₂ t₁ t₂ : State} (h : s₁.view = s₂.view)
    (h1 : execute s₁ = .next t₁) (h2 : execute s₂ = .next t₂) : t₁.view = t₂.view := by
  have hin := sameInputs_of_view_eq h
  cases hd : decode s₁.latch.w with
  | error why =>
    rw [execute_of_decode_error hd] at h1
    rw [execute_of_decode_error (hin.latch ▸ hd)] at h2
    cases h1
    cases h2
    exact (completeError_view (.illegal why) s₁).trans
      (h ▸ (completeError_view (.illegal why) s₂).symm)
  | ok i =>
    rw [execute_of_decode_ok hd] at h1
    rw [execute_of_decode_ok (hin.latch ▸ hd)] at h2
    rcases hin.exec i with ⟨e, he1, he2⟩ | ⟨w, he1, he2⟩
    · cases he1.symm.trans h1
      cases he2.symm.trans h2
      rw [completeError_view, completeError_view, h]
    · cases he1.symm.trans h1
      cases he2.symm.trans h2
      rw [finish_apply_view, finish_apply_view, h]

/-- The settled view depends on the view and BUSY alone (R26). -/
theorem settledView_congr {s₁ s₂ : State} (h : s₁.view = s₂.view)
    (hb : s₁.status.busy = s₂.status.busy) : s₁.settledView = s₂.settledView := by
  cases hb1 : s₁.status.busy with
  | false => rw [settledView_of_idle hb1, settledView_of_idle (hb ▸ hb1), h]
  | true =>
    have hb2 : s₂.status.busy = true := hb ▸ hb1
    obtain ⟨t₁, h1, _⟩ := exists_execute_next hb1
    obtain ⟨t₂, h2, _⟩ := exists_execute_next hb2
    rw [settledView_of_completionStep ((completionStep_of_busy hb1).trans h1),
      settledView_of_completionStep ((completionStep_of_busy hb2).trans h2),
      execute_view_eq h h1 h2]

/-! ### What the parts of a cycle do to it -/

/-- An access that accepts nothing, being no CMD write or coming while BUSY, keeps the view, BUSY
and DONE (R97, R98). -/
theorem AccessEffect.view_eq {a : Access} {s t : State} (h : AccessEffect a s t)
    (hstarts : s.status.busy = true ∨ a.writesCmd = false) :
    t.view = s.view ∧ t.status.busy = s.status.busy ∧ t.status.done = s.status.done := by
  cases h with
  | accepted w ha hb =>
    subst ha
    rcases hstarts with hbusy | hcmd
    · simp [hb] at hbusy
    · simp [Access.writesCmd] at hcmd
  | _ => exact ⟨rfl, rfl, rfl⟩

/-- The next state of a completion step is idle and holds the settled view (R26). -/
theorem StepEffect.settled {s t : State} (h : StepEffect s t) :
    t.status.busy = false ∧ t.view = s.settledView := by
  cases h with
  | idle hb => exact ⟨hb, (settledView_of_idle hb).symm⟩
  | completed i t hb hd he hc =>
    have hstep : completionStep s = .next t :=
      (completionStep_of_busy hb).trans ((execute_of_decode_ok hd).trans he)
    exact ⟨hc.flags.1, (settledView_of_completionStep hstep).symm⟩
  | illegal why hb hd =>
    have hstep : completionStep s = .next (completeError (.illegal why) s) :=
      (completionStep_of_busy hb).trans (execute_of_decode_error hd)
    exact ⟨rfl, (settledView_of_completionStep hstep).symm⟩

theorem StepEffect.settledView_eq {s t : State} (h : StepEffect s t) :
    t.settledView = s.settledView := by
  obtain ⟨hidle, hview⟩ := h.settled
  rw [settledView_of_idle hidle, hview]

/-- No completion step writes the latch (R23, R26). -/
theorem StepEffect.latch_eq {s t : State} (h : StepEffect s t) : t.latch = s.latch := by
  cases h with
  | idle => rfl
  | completed i t _ _ _ hc => cases hc <;> rfl
  | illegal => rfl

theorem settledView_latch (s : State) : s.settledView.latch = s.latch := by
  obtain ⟨t, ht, _⟩ := completionStep_next s
  rw [settledView_of_completionStep ht]
  exact (completionStep_inv ht).latch_eq

/-- Neither part of a cycle writes the agenda. -/
theorem StepEffect.agenda_eq {s t : State} (h : StepEffect s t) : t.agenda = s.agenda := by
  cases h with
  | idle => rfl
  | completed i t _ _ _ hc => cases hc <;> rfl
  | illegal => rfl

theorem AccessEffect.agenda_eq {a : Access} {s t : State} (h : AccessEffect a s t) :
    t.agenda = s.agenda := by
  cases h <;> rfl

/-- A step takes one cycle from the agenda. -/
theorem step_agenda {s t : State} (h : step s = .next t) : t.agenda = s.agenda.tail := by
  cases hr : s.nextCycle.reset with
  | true => rw [eq_resetBlock_of_step h hr]; rfl
  | false =>
    exact (step_inv h).keeps (P := fun x => x.agenda = s.agenda.tail) hr
      (fun _ _ _ _ hacc hx => hacc.agenda_eq.trans hx)
      (fun _ _ _ hstep hx => hstep.agenda_eq.trans hx) rfl

/-! ### Waiting -/

/-- While a command runs, a waiting step keeps the view, BUSY and DONE (R24, R98, R99). -/
theorem step_of_waiting {s t : State} (hb : s.status.busy = true) (hw : s.nextCycle.waiting)
    (h : step s = .next t) :
    t.view = s.view ∧ t.status.busy = true ∧ t.status.done = s.status.done := by
  obtain ⟨⟨hr, _⟩, hcompletes⟩ := hw
  refine (step_inv h).keeps
    (P := fun x => x.view = s.view ∧ x.status.busy = true ∧ x.status.done = s.status.done) hr
    (fun a _ x y hacc hx => ?access) (fun hc => ?completion) ⟨rfl, hb, rfl⟩
  case access =>
    obtain ⟨hview, hbusy, hdone⟩ := hx
    obtain ⟨hview', hbusy', hdone'⟩ := hacc.view_eq (.inl hbusy)
    exact ⟨hview'.trans hview, hbusy'.trans hbusy, hdone'.trans hdone⟩
  case completion => simp [hcompletes] at hc

/-- Settles O43: the fields named are BUSY, DONE and the command's view. -/
theorem nothingIsVisibleBeforeCompletion : Obligations.NothingIsVisibleBeforeCompletion := by
  intro s t hb hw h
  obtain ⟨hview, hbusy, hdone⟩ := step_of_waiting hb hw h
  simp only [State.view, CommandView.mk.injEq] at hview
  obtain ⟨hlatch, h0, h1, h2, herror, herr, htable, hn, hcount, hvalid⟩ := hview
  exact ⟨hbusy, hlatch, h0, h1, h2, herror, htable, hn, hcount, hvalid, hdone, herr⟩

/-- A run that goes on after its first step made that step. -/
theorem exists_step_of_run {k : Nat} {s u : State}
    (h : Sys2Proof.core.run (k + 1) s = .next u) :
    ∃ t, step s = .next t ∧ Sys2Proof.core.run k t = .next u := by
  cases hstep : step s with
  | next t => exact ⟨t, rfl, (run_of_step k hstep).symm.trans h⟩
  | fault r =>
    have hcore : Sys2Proof.core.step s = .fault r := hstep
    simp only [Host.Core.run, hcore] at h
    cases h
  | refused r =>
    have hcore : Sys2Proof.core.step s = .refused r := hstep
    simp only [Host.Core.run, hcore] at h
    cases h

/-- The next cycle is the first of a nonempty agenda. -/
theorem nextCycle_of_cons {s : State} {c : Cycle} {rest : List Cycle} (h : s.agenda = c :: rest) :
    s.nextCycle = c := by
  rw [State.nextCycle, h]
  rfl

/-- Any number of waiting cycles keep the running command and its view, and leave the rest of the
agenda (R98, R101). -/
theorem run_of_waiting (cs rest : List Cycle) {s u : State} (hb : s.status.busy = true)
    (hs : s.agenda = cs ++ rest) (hw : ∀ c ∈ cs, c.waiting)
    (h : Sys2Proof.core.run cs.length s = .next u) :
    u.agenda = rest ∧ u.view = s.view ∧ u.status.busy = true := by
  induction cs generalizing s with
  | nil =>
    obtain rfl : s = u := Host.Outcome.next.inj h
    exact ⟨hs, rfl, hb⟩
  | cons c cs ih =>
    obtain ⟨t, hstep, hrun⟩ := exists_step_of_run h
    have hc : s.nextCycle = c := nextCycle_of_cons hs
    obtain ⟨hview, hbusy, _⟩ := step_of_waiting hb (hc ▸ hw c List.mem_cons_self) hstep
    have hagenda : t.agenda = cs ++ rest := by rw [step_agenda hstep, hs]; rfl
    obtain ⟨hrest, hview', hbusy'⟩ :=
      ih hbusy hagenda (fun c hc => hw c (List.mem_cons_of_mem _ hc)) hrun
    exact ⟨hrest, hview'.trans hview, hbusy'⟩

/-- A running command completed in a cycle of its own: the state it leaves, with the settled view.
-/
theorem exists_step_ownCycle {s : State} (hb : s.status.busy = true) :
    ∃ t, step { s with agenda := [ownCycle] } = .next t ∧ t.view = s.settledView ∧
      t.status.busy = false ∧ t.status.done = true := by
  obtain ⟨t, ht, ⟨hidle, hdone, _⟩, heffect⟩ :=
    exists_execute_next (s := { s with agenda := [] }) hb
  have hstep : step { s with agenda := [ownCycle] } = execute { s with agenda := [] } :=
    step_of_completing_cycle (s := { s with agenda := [ownCycle] }) hb rfl rfl rfl rfl
  have hsettled : ({ s with agenda := [] } : State).settledView = s.settledView :=
    settledView_congr rfl rfl
  exact ⟨t, hstep.trans ht, heffect.settled.2.trans hsettled, hidle, hdone⟩

/-- Settles O47: waiting keeps the view, and the completion is a function of it. -/
theorem latencyDoesNotChangeTheOutcome : Obligations.LatencyDoesNotChangeTheOutcome := by
  intro s u cs rest hb hs hw hrun
  obtain ⟨hrest, hview, hbusy⟩ := run_of_waiting cs rest hb hs hw hrun
  obtain ⟨ts, hts, hviews, _, _⟩ := exists_step_ownCycle hb
  obtain ⟨tu, htu, hviewu, hidle, hdone⟩ := exists_step_ownCycle hbusy
  have hsame : tu.view = ts.view := by
    rw [hviewu, hviews, settledView_congr hview (hbusy.trans hb.symm)]
  simp only [State.view, CommandView.mk.injEq] at hsame
  obtain ⟨_, h0, h1, h2, herror, herr, htable, hn, hcount, hvalid⟩ := hsame
  exact ⟨hrest, ts, tu, hts, htu, h0, h1, h2, herror, herr, htable, hn, hcount, hvalid, hdone,
    hidle⟩

/-! ### Using up the agenda -/

/-- A command has been accepted: it runs, or it is done. -/
def State.Started (s : State) : Prop := s.status.busy = true ∨ s.status.done = true

/-- An accept, a completion and everything else keep it so (R25, R26). -/
theorem State.Started.access {a : Access} {s t : State} (h : s.Started)
    (hacc : AccessEffect a s t) : t.Started := by
  cases hacc with
  | accepted => exact .inl rfl
  | _ => exact h

theorem State.Started.stepEffect {s t : State} (h : s.Started) (hstep : StepEffect s t) :
    t.Started := by
  cases hstep with
  | idle => exact h
  | completed i t _ _ _ hc => exact .inr hc.flags.2.1
  | illegal => exact .inr rfl

theorem State.Started.step {s t : State} (h : s.Started) (hr : s.nextCycle.reset = false)
    (hstep : step s = .next t) : t.Started :=
  (step_inv hstep).keeps (P := State.Started) hr (fun _ _ _ _ hacc hx => hx.access hacc)
    (fun _ _ _ heffect hx => hx.stepEffect heffect) h

/-- A cycle that starts nothing keeps the settled view, whether the command completes in it or not.
-/
theorem settledView_of_startsNothing {s t : State} (hc : s.nextCycle.startsNothing)
    (hstep : step s = .next t) : t.settledView = s.settledView := by
  obtain ⟨⟨hr, _⟩, hcmd⟩ := hc
  have hs : ({ s with agenda := s.agenda.tail } : State).settledView = s.settledView :=
    settledView_congr rfl rfl
  refine (step_inv hstep).keeps (P := fun x => x.settledView = s.settledView) hr
    (fun a ha x y hacc hx => ?access) (fun _ x y heffect hx => heffect.settledView_eq.trans hx) hs
  case access =>
    obtain ⟨hview, hbusy, _⟩ := hacc.view_eq (.inr (hcmd a ha))
    exact (settledView_congr hview hbusy).trans hx

/-- With an empty agenda the step is the completion, which leaves the block idle (log 2). -/
theorem exists_step_of_agenda_nil {s : State} (hs : s.agenda = []) (hstarted : s.Started) :
    ∃ t, step s = .next t ∧ t.status.busy = false ∧ t.status.done = true ∧
      t.view = s.settledView := by
  obtain ⟨t, ht, hidle⟩ := completionStep_next s
  have hstep : step s = .next t := by
    rw [step, runNext, hs]
    exact ht
  have heffect := completionStep_inv ht
  exact ⟨t, hstep, hidle, (hstarted.stepEffect heffect).resolve_left (by simp [hidle]),
    heffect.settled.2⟩

/-- When the agenda is used up no command runs and the last one is done; with no CMD write in it,
the view is the settled view of the beginning (R101). -/
theorem run_of_regular (cs : List Cycle) {s : State} (hs : s.agenda = cs) (hstarted : s.Started)
    (hregular : ∀ c ∈ cs, c.regular) :
    ∃ t, Sys2Proof.core.run (cs.length + 1) s = .next t ∧ t.status.busy = false ∧
      t.status.done = true ∧ ((∀ c ∈ cs, c.startsNothing) → t.view = s.settledView) := by
  induction cs generalizing s with
  | nil =>
    obtain ⟨t, hstep, hidle, hdone, hview⟩ := exists_step_of_agenda_nil hs hstarted
    exact ⟨t, (run_of_step 0 hstep).trans rfl, hidle, hdone, fun _ => hview⟩
  | cons c cs ih =>
    have hnext : s.nextCycle = c := nextCycle_of_cons hs
    have hc : c.regular := hregular c List.mem_cons_self
    obtain ⟨u, hu⟩ : ∃ u, step s = .next u := by
      rw [step_of_agenda_cons hs]
      exact runCycle_next_of_regular hc _
    have hagenda : u.agenda = cs := by rw [step_agenda hu, hs]; rfl
    obtain ⟨t, hrun, hidle, hdone, hview⟩ := ih hagenda (hstarted.step (hnext ▸ hc.1) hu)
      fun c hc => hregular c (List.mem_cons_of_mem _ hc)
    refine ⟨t, (run_of_step _ hu).trans hrun, hidle, hdone, fun hnothing => ?_⟩
    rw [hview fun c hc => hnothing c (List.mem_cons_of_mem _ hc),
      settledView_of_startsNothing (hnext ▸ hnothing c List.mem_cons_self) hu]

/-- Settles O48: the run uses up the agenda, and the settled view is that of a completion at once.
-/
theorem everyAcceptedCommandCompletes : Obligations.EveryAcceptedCommandCompletes := by
  intro s hb hregular
  obtain ⟨t, hrun, hidle, hdone, hview⟩ := run_of_regular s.agenda rfl (.inl hb) hregular
  refine ⟨t, hrun, hidle, hdone, fun hnothing => ?_⟩
  obtain ⟨u, hu, hviewu, _, _⟩ := exists_step_ownCycle hb
  have hsame : t.view = u.view := (hview hnothing).trans hviewu.symm
  simp only [State.view, CommandView.mk.injEq] at hsame
  obtain ⟨htlatch, h0, h1, h2, herror, herr, htable, hn, hcount, hvalid⟩ := hsame
  have hlatch : u.latch = s.latch :=
    (congrArg CommandView.latch hviewu).trans (settledView_latch s)
  exact ⟨u, hu, htlatch.trans hlatch, h0, h1, h2, herror, herr, htable, hn, hcount, hvalid⟩

end Sys2Proof.Machine
end

section
/-! egcd's results in their registers (spec/40_extended_euclid.md R52), and the primality commands
on primes, small and even numbers (spec/42_primality.md R65 to R67). -/

namespace Sys2Proof.Machine

/-! ### The Bézout pair in its registers (R52) -/

/-- coeffB of the canonical pair is at most `|a|/gcd` in absolute value: the identity bounds
`|b|·|coeffB|` by `gcd + |a|·coeffA`, and coeffA is below `|b|/gcd` (R52). -/
theorem CanonicalBezout.natAbs_le {a b cA cB : Int} (ha : a ≠ 0) (hb : b ≠ 0)
    (h : CanonicalBezout a b cA cB) : cB.natAbs ≤ a.natAbs / Int.gcd a b := by
  obtain ⟨h0, hlt, hid⟩ := h
  set g := Int.gcd a b with hg
  obtain ⟨q, hq⟩ : g ∣ a.natAbs := Nat.gcd_dvd_left _ _
  obtain ⟨p, hp⟩ : g ∣ b.natAbs := Nat.gcd_dvd_right _ _
  have hgpos : 0 < g := Int.gcd_pos_of_ne_zero_left b ha
  have hppos : 0 < p := Nat.pos_of_mul_pos_left (hp ▸ Int.natAbs_pos.mpr hb)
  have hqpos : 0 < q := Nat.pos_of_mul_pos_left (hq ▸ Int.natAbs_pos.mpr ha)
  rw [hp, Nat.mul_div_cancel_left p hgpos] at hlt
  have hbound : g * p * cB.natAbs ≤ g * p * q := by
    calc g * p * cB.natAbs = (b * cB).natAbs := by rw [Int.natAbs_mul, hp]
      _ = ((g : Int) - a * cA).natAbs := by rw [← hid]; congr 1; ring
      _ ≤ (g : Int).natAbs + (a * cA).natAbs := Int.natAbs_sub_le _ _
      _ = g + g * q * cA.natAbs := by rw [Int.natAbs_natCast, Int.natAbs_mul, hq]
      _ ≤ g * q + g * q * cA.natAbs := Nat.add_le_add_right (Nat.le_mul_of_pos_right g hqpos) _
      _ = g * q * (cA.natAbs + 1) := by ring
      _ ≤ g * q * p := Nat.mul_le_mul_left _ (by omega)
      _ = g * p * q := by ring
  rw [hq, Nat.mul_div_cancel_left q hgpos]
  exact Nat.le_of_mul_le_mul_left hbound (Nat.mul_pos hgpos hppos)

/-- The signed reading of a word is at most 2⁶³ in absolute value (R6). -/
theorem natAbs_toInt_le (w : Word) : w.toInt.natAbs ≤ 2 ^ 63 := by
  have h1 := BitVec.le_toInt w
  have h2 := BitVec.toInt_lt (x := w)
  omega

/-- An integer in the signed range is read back from its word (R6). -/
theorem toInt_ofInt_of_range {v : Int} (h1 : -2 ^ 63 ≤ v) (h2 : v < 2 ^ 63) :
    (BitVec.ofInt 64 v).toInt = v :=
  BitVec.toInt_ofInt_eq_self (by decide) h1 h2

/-- coeffB of two signed words is below 2⁶³: it could be 2⁶³ only for `a = -2⁶³` with gcd 1, and
then the identity would make 1 a multiple of 2⁶³ (R52). -/
theorem CanonicalBezout.lt_two_pow {wa wb : Word} {cA cB : Int} (ha : wa.toInt ≠ 0)
    (hb : wb.toInt ≠ 0) (h : CanonicalBezout wa.toInt wb.toInt cA cB) : cB < 2 ^ 63 := by
  have hle := h.natAbs_le ha hb
  have habs := natAbs_toInt_le wa
  have hdvd : Int.gcd wa.toInt wb.toInt * (wa.toInt.natAbs / Int.gcd wa.toInt wb.toInt) =
    wa.toInt.natAbs := Nat.mul_div_cancel' (Nat.gcd_dvd_left _ _)
  have hid := h.identity
  have hgpos : 0 < Int.gcd wa.toInt wb.toInt := Int.gcd_pos_of_ne_zero_left _ ha
  by_contra hge
  have hq : 2 ^ 63 ≤ wa.toInt.natAbs / Int.gcd wa.toInt wb.toInt := by omega
  have hg : Int.gcd wa.toInt wb.toInt = 1 := by
    by_contra hne
    have := Nat.mul_le_mul (show 2 ≤ Int.gcd wa.toInt wb.toInt by omega) hq
    omega
  rw [hg, Nat.div_one] at hle hq
  have hcB : cB = 2 ^ 63 := by omega
  have hwa : wa.toInt = -2 ^ 63 := by
    have := BitVec.toInt_lt (x := wa)
    omega
  rw [hg, hwa, hcB] at hid
  omega

/-- The gcd of two nonzero signed words is at most 2⁶³, and 2⁶³ only for two words of -2⁶³ (R52). -/
theorem gcd_toInt_le {wa wb : Word} (ha : wa.toInt ≠ 0) (hb : wb.toInt ≠ 0) :
    Int.gcd wa.toInt wb.toInt ≤ 2 ^ 63 ∧
      (Int.gcd wa.toInt wb.toInt = 2 ^ 63 → wa.toInt = -2 ^ 63 ∧ wb.toInt = -2 ^ 63) := by
  have hga : Int.gcd wa.toInt wb.toInt ≤ wa.toInt.natAbs :=
    Nat.le_of_dvd (Int.natAbs_pos.mpr ha) (Nat.gcd_dvd_left _ _)
  have hgb : Int.gcd wa.toInt wb.toInt ≤ wb.toInt.natAbs :=
    Nat.le_of_dvd (Int.natAbs_pos.mpr hb) (Nat.gcd_dvd_right _ _)
  have haabs := natAbs_toInt_le wa
  have hbabs := natAbs_toInt_le wb
  have halt := BitVec.toInt_lt (x := wa)
  have hblt := BitVec.toInt_lt (x := wb)
  omega

/-- Settles O9: the canonical pair and the gcd lie in the ranges their registers hold, so reading
the registers gives them back. -/
theorem egcdResultsFitTheirRegisters : Obligations.EgcdResultsFitTheirRegisters := by
  intro s a b ha hb
  obtain ⟨cA, cB, hpair, hres⟩ := exists_bezout_eq_canonicalBezout ha hb
  obtain ⟨hgle, hgtop⟩ : Int.gcd a b ≤ 2 ^ 63 ∧
      (Int.gcd a b = 2 ^ 63 → a = -2 ^ 63 ∧ b = -2 ^ 63) := gcd_toInt_le ha hb
  have hgpos : 0 < Int.gcd a b := Int.gcd_pos_of_ne_zero_left b ha
  have hcB := hpair.natAbs_le ha hb
  have hcA : cA < 2 ^ 63 := by
    have hdiv : b.natAbs / Int.gcd a b ≤ b.natAbs := Nat.div_le_self _ _
    have habs : b.natAbs ≤ 2 ^ 63 := natAbs_toInt_le s.latch.b
    have hlt := hpair.lt
    omega
  have hcBlow : -2 ^ 63 ≤ cB := by
    have hdiv : a.natAbs / Int.gcd a b ≤ a.natAbs := Nat.div_le_self _ _
    have habs : a.natAbs ≤ 2 ^ 63 := natAbs_toInt_le s.latch.a
    omega
  have hres0 : (BitVec.ofInt 64 (Int.gcd a b : Int)).toNat = Int.gcd a b := by
    rw [BitVec.ofInt_natCast, BitVec.toNat_ofNat, Nat.mod_eq_of_lt (by omega)]
  have hres1 : (BitVec.ofInt 64 cA).toInt = cA :=
    toInt_ofInt_of_range (by have := hpair.nonneg; omega) hcA
  have hres2 : (BitVec.ofInt 64 cB).toInt = cB :=
    toInt_ofInt_of_range hcBlow (hpair.lt_two_pow ha hb)
  refine ⟨_, exec_egcd_of_bezout_eq hres, ?_⟩
  simp only [State.afterSuccess_res0, State.afterSuccess_res1, State.afterSuccess_res2, hres0,
    hres1, hres2]
  exact ⟨trivial, hgpos, hgle, hgtop, hpair.nonneg, hpair.lt, hcB, hpair.identity⟩

/-! ### Primes (R65) -/

/-- Where a square is 1 only for ±1, a number whose 2^s-th power is 1 is 1, or reaches -1 on the way
there. -/
theorem eq_one_or_exists_pow_eq_neg_one {R : Type} [CommRing R] [NoZeroDivisors R] {x : R} {s : Nat}
    (h : x ^ 2 ^ s = 1) : x = 1 ∨ ∃ r < s, x ^ 2 ^ r = -1 := by
  induction s with
  | zero => exact .inl (by simpa using h)
  | succ s ih =>
    rw [pow_succ, pow_mul, pow_two, mul_self_eq_one_iff] at h
    rcases h with hone | hneg
    · rcases ih hone with hx | ⟨r, hr, hx⟩
      · exact .inl hx
      · exact .inr ⟨r, hr.trans (Nat.lt_succ_self s), hx⟩
    · exact .inr ⟨s, Nat.lt_succ_self s, hneg⟩

/-- A witness modulo a prime, as residues: a power is 1 or `n − 1` when it is 1 or -1 in the field.
-/
theorem pow_mod_eq_one_of_cast {n a k : Nat} (hn : 1 < n) (h : (a : ZMod n) ^ k = 1) :
    a ^ k % n = 1 := by
  have hcast : ((a ^ k : Nat) : ZMod n) = (1 : Nat) := by push_cast; exact h
  rw [(ZMod.natCast_eq_natCast_iff' _ _ _).mp hcast, Nat.mod_eq_of_lt hn]

theorem pow_mod_eq_pred_of_cast {n a k : Nat} (hn : 1 < n) (h : (a : ZMod n) ^ k = -1) :
    a ^ k % n = n - 1 := by
  have hcast : ((a ^ k : Nat) : ZMod n) = (n - 1 : Nat) := by
    rw [Nat.cast_sub hn.le]
    push_cast
    rw [h, ZMod.natCast_self, zero_sub]
  rw [(ZMod.natCast_eq_natCast_iff' _ _ _).mp hcast, Nat.mod_eq_of_lt (by omega)]

/-- A prime witness accepts every prime above 2 of 64 bits: it is the prime, or Fermat's theorem
makes its `(n − 1)`-th power 1 in a field (R64, R65). -/
theorem witnessAccepts_of_prime {n a : Nat} (hn : n.Prime) (h2 : 2 < n) (hlt : n < 2 ^ 64)
    (ha : a.Prime) : WitnessAccepts a n := by
  have hdec := decompose_decomposes h2 hlt
  set d := (decompose n).1
  set s := (decompose n).2
  have : Fact n.Prime := ⟨hn⟩
  rw [hdec.witnessAccepts_iff]
  by_cases heq : n = a
  · exact .inl heq
  · have hne : (a : ZMod n) ≠ 0 := by
      rw [Ne, ZMod.natCast_eq_zero_iff, Nat.prime_dvd_prime_iff_eq hn ha]
      exact heq
    have hfermat : ((a : ZMod n) ^ d) ^ 2 ^ s = 1 := by
      rw [← pow_mul, ← hdec.split, ZMod.pow_card_sub_one_eq_one hne]
    rcases eq_one_or_exists_pow_eq_neg_one hfermat with hone | ⟨r, hr, hneg⟩
    · exact .inr (.inl (pow_mod_eq_one_of_cast hn.one_lt hone))
    · exact .inr (.inr ⟨r, hr, pow_mod_eq_pred_of_cast hn.one_lt (by rw [pow_mul, hneg])⟩)

/-- The witnesses are primes (R22). -/
theorem prime_of_mem_witnessSet {n a : Nat} (h : a ∈ witnessSet n) : a.Prime := by
  unfold witnessSet at h
  split at h
  · simp only [witnessesW3, List.mem_cons, List.not_mem_nil, or_false] at h
    rcases h with rfl | rfl | rfl <;> norm_num
  · simp only [witnessesW12, List.mem_cons, List.not_mem_nil, or_false] at h
    rcases h with rfl | rfl | rfl | rfl | rfl | rfl | rfl | rfl | rfl | rfl | rfl | rfl <;> norm_num

/-- Every prime of 64 bits passes the fixed-witness test (R65). -/
theorem fixedWitnessAccepts_of_prime {n : Nat} (hn : n.Prime) (hlt : n < 2 ^ 64) :
    FixedWitnessAccepts n := by
  rcases hn.two_le.eq_or_lt with rfl | h2
  · exact .inl rfl
  · exact (fixedWitnessAccepts_natCast_iff h2).mpr fun a ha =>
      witnessAccepts_of_prime hn h2 hlt (prime_of_mem_witnessSet ha)

/-- A word below 2⁶³ reads the same under both readings (R6). -/
theorem toInt_eq_toNat_of_lt {w : Word} (h : w.toNat < 2 ^ 63) : w.toInt = w.toNat :=
  BitVec.toInt_eq_toNat_of_lt (by omega)

/-- Settles O16: the prime operand is accepted under the unsigned reading, and under the signed one
where both agree. -/
theorem primesAreNeverRejected : Obligations.PrimesAreNeverRejected := by
  intro s hprime
  have haccepts : FixedWitnessAccepts (s.latch.a.toNat : Int) :=
    fixedWitnessAccepts_of_prime hprime s.latch.a.isLt
  refine ⟨?unsigned, fun hlt => ?signed⟩
  case unsigned => rw [exec_isprimeU, boolWord_millerRabin_of_accepts (u := true) haccepts]
  case signed =>
    rw [← toInt_eq_toNat_of_lt hlt] at haccepts
    rw [exec_isprime, boolWord_millerRabin_of_accepts (u := false) haccepts]

/-! ### Small and even numbers (R66, R67) -/

/-- A number up to 1, or above 2 and even, fails the fixed-witness test: the first witness is 2. -/
theorem not_fixedWitnessAccepts {n : Int} (hlt : n < 2 ^ 64)
    (h : n ≤ 1 ∨ (2 < n ∧ n % 2 = 0)) : ¬ FixedWitnessAccepts n := by
  rcases h with hsmall | ⟨h2, heven⟩
  · rintro (heq | ⟨hgt, -⟩) <;> omega
  · lift n to Nat using by omega
    have hn : 2 < n := by omega
    rw [fixedWitnessAccepts_natCast_iff hn]
    obtain ⟨rest, hrest⟩ := exists_witnessSet_eq_two_cons n
    exact fun hall => (decompose_decomposes hn (by omega)).not_witnessAccepts_two hn (by omega)
      (hall 2 (by simp [hrest]))

/-- Settles O17: either reading of such an operand is not accepted. -/
theorem smallAndEvenNumbersAreRejected : Obligations.SmallAndEvenNumbersAreRejected := by
  refine fun s => ⟨fun h => ?signed, fun h => ?unsigned⟩
  case signed =>
    have hrejects := not_fixedWitnessAccepts (readOperand_lt false s.latch.a) h
    rw [exec_isprime, boolWord_millerRabin_of_not_accepts hrejects]
  case unsigned =>
    have hreading : readOperand true s.latch.a ≤ 1 ∨
        (2 < readOperand true s.latch.a ∧ readOperand true s.latch.a % 2 = 0) := by
      rw [readOperand_unsigned]
      omega
    have hrejects := not_fixedWitnessAccepts (readOperand_lt true s.latch.a) hreading
    rw [exec_isprimeU, boolWord_millerRabin_of_not_accepts hrejects]

end Sys2Proof.Machine
end

section
/-! What LinearSieve tabulates (spec/43_sieve.md R69, R71): each composite is written once, as its
smallest prime factor times its cofactor, and each recurrence of the pass is a law of the arithmetic
function it tabulates. -/

namespace Sys2Proof.Machine

/-! ### The values, and their laws at `i·p` for a prime `p` up to the smallest prime factor of `i`
-/

/-- SPF: the smallest prime factor, 0 below index 2 (R71). -/
def spfValue (k : Nat) : Nat := if k < 2 then 0 else Nat.minFac k

/-- EXPT: `p^(v−1)` for a prime power `p^v`, else `p^v`; 0 below index 2 (R71). -/
def exptValue (k : Nat) : Nat :=
  if k < 2 then 0
  else if k = Nat.minFac k ^ k.factorization (Nat.minFac k)
  then Nat.minFac k ^ (k.factorization (Nat.minFac k) - 1)
  else Nat.minFac k ^ k.factorization (Nat.minFac k)

/-- The entries the inner loop writes have an index of at least 2. -/
theorem two_le_mul_prime {i p : Nat} (hi : 2 ≤ i) (hp : p.Prime) : 2 ≤ i * p :=
  hi.trans (Nat.le_mul_of_pos_right i hp.pos)

/-- The smallest prime factor of `i·p` is `p` (R69). -/
theorem minFac_mul_prime {i p : Nat} (hp : p.Prime) (hle : p ≤ i.minFac) : (i * p).minFac = p := by
  refine le_antisymm (Nat.minFac_le_of_dvd hp.two_le (dvd_mul_left p i)) ?_
  by_cases h1 : i * p = 1
  · exact absurd (Nat.eq_one_of_mul_eq_one_left h1) hp.one_lt.ne'
  · have hprime := Nat.minFac_prime h1
    rcases hprime.dvd_mul.mp (Nat.minFac_dvd (i * p)) with hi | hip
    · exact hle.trans (Nat.minFac_le_of_dvd hprime.two_le hi)
    · exact ((Nat.prime_dvd_prime_iff_eq hprime hp).mp hip).ge

/-- The exponent of `p` in `i·p` is one more than in `i`. -/
theorem factorization_mul_prime_self {i p : Nat} (hi : i ≠ 0) (hp : p.Prime) :
    (i * p).factorization p = i.factorization p + 1 := by
  rw [Nat.factorization_mul hi hp.ne_zero]
  simp [hp.factorization_self]

/-- EXPT where the smallest prime factor is known. -/
theorem exptValue_of_minFac {k p : Nat} (hk : 2 ≤ k) (h : k.minFac = p) :
    exptValue k = if k = p ^ k.factorization p then p ^ (k.factorization p - 1)
      else p ^ k.factorization p := by
  rw [exptValue, if_neg (by omega), h]

theorem exptValue_prime {p : Nat} (hp : p.Prime) : exptValue p = 1 := by
  rw [exptValue_of_minFac hp.two_le hp.minFac_eq, hp.factorization_self, pow_one, if_pos rfl]
  rfl

/-- The recurrence of EXPT at a repeated prime factor (R69). -/
theorem exptValue_mul_minFac {i : Nat} (hi : 2 ≤ i) :
    exptValue (i * i.minFac) = exptValue i * i.minFac := by
  have hp : i.minFac.Prime := Nat.minFac_prime (by omega)
  have hv : 0 < i.factorization i.minFac :=
    hp.factorization_pos_of_dvd (by omega) (Nat.minFac_dvd i)
  rw [exptValue_of_minFac (two_le_mul_prime hi hp) (minFac_mul_prime hp le_rfl),
    exptValue_of_minFac hi rfl, factorization_mul_prime_self (by omega) hp, pow_succ]
  by_cases h : i = i.minFac ^ i.factorization i.minFac
  · rw [if_pos (by rw [← h]), if_pos h, Nat.add_sub_cancel, ← pow_succ, Nat.sub_add_cancel hv]
  · rw [if_neg (fun hmul => h (Nat.eq_of_mul_eq_mul_right hp.pos hmul)), if_neg h]

/-- The recurrence of EXPT at a new prime factor (R69). -/
theorem exptValue_mul_prime {i p : Nat} (hi : 2 ≤ i) (hp : p.Prime) (hle : p ≤ i.minFac)
    (hdvd : ¬ p ∣ i) : exptValue (i * p) = p := by
  have hv : i.factorization p = 0 := Nat.factorization_eq_zero_of_not_dvd hdvd
  have hne : i * p ≠ p ^ 1 := by
    rw [pow_one]
    exact ((Nat.lt_mul_iff_one_lt_left hp.pos).mpr hi).ne'
  rw [exptValue_of_minFac (two_le_mul_prime hi hp) (minFac_mul_prime hp hle),
    factorization_mul_prime_self (by omega) hp, hv, zero_add, if_neg hne, pow_one]

/-- The recurrence of MU at a repeated prime factor (R69). -/
theorem moebius_mul_prime_of_dvd {i p : Nat} (hp : p.Prime) (hdvd : p ∣ i) :
    ArithmeticFunction.moebius (i * p) = 0 := by
  apply ArithmeticFunction.moebius_eq_zero_of_not_squarefree
  intro hsq
  exact hp.not_isUnit (hsq p (mul_dvd_mul_right hdvd p))

/-- The recurrence of MU at a new prime factor (R69). -/
theorem moebius_mul_prime_of_not_dvd {i p : Nat} (hp : p.Prime) (hdvd : ¬ p ∣ i) :
    ArithmeticFunction.moebius (i * p) = -ArithmeticFunction.moebius i := by
  have hcop : Nat.Coprime i p := ((Nat.Prime.coprime_iff_not_dvd hp).mpr hdvd).symm
  rw [ArithmeticFunction.isMultiplicative_moebius.map_mul_of_coprime hcop,
    ArithmeticFunction.moebius_apply_prime hp, mul_neg_one]

/-! ### What is in the table, and what is not yet -/

/-- Entry `k` of each array holds its value (R71). -/
structure SieveTable.EntryOk (t : SieveTable) (k : Nat) : Prop where
  spf : t.spf[k]? = some (spfValue k)
  expt : t.expt[k]? = some (exptValue k)
  phi : t.phi[k]? = some (Nat.totient k)
  mu : t.mu[k]? = some (ArithmeticFunction.moebius k)

/-- The arrays reach 0..N, the entries of `W` hold their values, and SPF of every other one is still
0 (R69). -/
structure SieveTable.Tabulates (t : SieveTable) (N : Nat) (W : Nat → Prop) : Prop where
  reaches : t.reaches N
  written : ∀ k ≤ N, W k → t.EntryOk k
  unwritten : ∀ k ≤ N, ¬ W k → t.spf[k]? = some 0

/-- Only the entries up to N matter. -/
theorem SieveTable.Tabulates.congr {t : SieveTable} {N : Nat} {W V : Nat → Prop}
    (h : t.Tabulates N W) (hiff : ∀ k ≤ N, (W k ↔ V k)) : t.Tabulates N V where
  reaches := h.reaches
  written k hk hV := h.written k hk ((hiff k hk).mpr hV)
  unwritten k hk hV := h.unwritten k hk (mt (hiff k hk).mp hV)

/-- The prime list plays no part. -/
theorem SieveTable.Tabulates.withPrimes {t : SieveTable} {N : Nat} {W : Nat → Prop}
    (h : t.Tabulates N W) (ps : List Nat) :
    ({ t with primes := ps } : SieveTable).Tabulates N W where
  reaches := h.reaches
  written k hk hW := ⟨(h.written k hk hW).spf, (h.written k hk hW).expt, (h.written k hk hW).phi,
    (h.written k hk hW).mu⟩
  unwritten := h.unwritten

/-- A write of entry `k` leaves every other entry as it is. -/
theorem SieveTable.EntryOk.put_of_ne {t : SieveTable} {j k : Nat} (h : t.EntryOk j) (hne : k ≠ j)
    (a b c : Nat) (d : Int) : (t.put k a b c d).EntryOk j := by
  obtain ⟨hspf, hexpt, hphi, hmu⟩ := h
  constructor <;> simpa [SieveTable.put, List.getElem?_set_ne hne]

/-- A write of an entry's values makes it hold them. -/
theorem SieveTable.reaches.entryOk_put {t : SieveTable} {N k : Nat} (h : t.reaches N) (hk : k ≤ N) :
    (t.put k (spfValue k) (exptValue k) (Nat.totient k)
      (ArithmeticFunction.moebius k)).EntryOk k := by
  obtain ⟨hspf, hexpt, hphi, hmu⟩ := h
  constructor <;> exact List.getElem?_set_self (by omega)

/-- Writing the values of entry `k` adds `k` to the written entries (R69). -/
theorem SieveTable.Tabulates.put {t : SieveTable} {N k : Nat} {W : Nat → Prop}
    (h : t.Tabulates N W) (hk : k ≤ N) {a b c : Nat} {d : Int} (ha : a = spfValue k)
    (hb : b = exptValue k) (hc : c = Nat.totient k) (hd : d = ArithmeticFunction.moebius k) :
    (t.put k a b c d).Tabulates N (fun j => W j ∨ j = k) := by
  subst ha hb hc hd
  refine ⟨put_reaches h.reaches _ _ _ _ _, fun j hj hW => ?_, fun j hj hW => ?_⟩
  · by_cases hjk : j = k
    · rw [hjk]
      exact h.reaches.entryOk_put hk
    · exact (h.written j hj (hW.resolve_right hjk)).put_of_ne (Ne.symm hjk) _ _ _ _
  · obtain ⟨hnot, hjk⟩ := not_or.mp hW
    have hset : (t.spf.set k (spfValue k))[j]? = t.spf[j]? := List.getElem?_set_ne (Ne.symm hjk)
    exact hset.trans (h.unwritten j hj hnot)

/-- A written entry is what the recurrences read. -/
theorem SieveTable.EntryOk.getD {t : SieveTable} {k : Nat} (h : t.EntryOk k) :
    t.expt.getD k 0 = exptValue k ∧ t.phi.getD k 0 = Nat.totient k ∧
      t.mu.getD k 0 = ArithmeticFunction.moebius k := by
  simp [List.getD_eq_getElem?_getD, h.expt, h.phi, h.mu]

/-! ### The inner loop -/

/-- A prime that divides `i` and is up to every prime factor of it is its smallest. -/
theorem eq_minFac_of_dvd {i p : Nat} (hp : p.Prime) (hdvd : p ∣ i) (hle : p ≤ i.minFac) :
    p = i.minFac :=
  le_antisymm hle (Nat.minFac_le_of_dvd hp.two_le hdvd)

/-- One turn that breaks: the last prime the inner loop uses is the smallest factor of `i` (R69). -/
theorem SieveTable.Tabulates.put_repeated {t : SieveTable} {N i : Nat} {W : Nat → Prop}
    (h : t.Tabulates N W) (hi : 2 ≤ i) (hentry : t.EntryOk i) (hN : i * i.minFac ≤ N) :
    (t.put (i * i.minFac) i.minFac (t.expt.getD i 0 * i.minFac) (t.phi.getD i 0 * i.minFac)
      0).Tabulates N (fun j => W j ∨ j = i * i.minFac) := by
  obtain ⟨hexpt, hphi, _⟩ := hentry.getD
  have hp : i.minFac.Prime := Nat.minFac_prime (by omega)
  refine h.put hN ?_ ?_ ?_ ?_
  · rw [spfValue, if_neg (two_le_mul_prime hi hp).not_gt, minFac_mul_prime hp le_rfl]
  · rw [hexpt, exptValue_mul_minFac hi]
  · rw [hphi, mul_comm i, Nat.totient_mul_of_prime_of_dvd hp (Nat.minFac_dvd i), mul_comm]
  · rw [moebius_mul_prime_of_dvd hp (Nat.minFac_dvd i)]

/-- One turn that goes on: a prime below the smallest factor of `i` (R69). -/
theorem SieveTable.Tabulates.put_new {t : SieveTable} {N i p : Nat} {W : Nat → Prop}
    (h : t.Tabulates N W) (hi : 2 ≤ i) (hentry : t.EntryOk i) (hp : p.Prime) (hle : p ≤ i.minFac)
    (hdvd : ¬ p ∣ i) (hN : i * p ≤ N) :
    (t.put (i * p) p p (t.phi.getD i 0 * (p - 1)) (-t.mu.getD i 0)).Tabulates N
      (fun j => W j ∨ j = i * p) := by
  obtain ⟨_, hphi, hmu⟩ := hentry.getD
  refine h.put hN ?_ ?_ ?_ ?_
  · rw [spfValue, if_neg (two_le_mul_prime hi hp).not_gt, minFac_mul_prime hp hle]
  · rw [exptValue_mul_prime hi hp hle hdvd]
  · rw [hphi, mul_comm i, Nat.totient_mul_of_prime_of_not_dvd hp hdvd, mul_comm]
  · rw [hmu, moebius_mul_prime_of_not_dvd hp hdvd]

/-- The inner loop over an increasing list of primes that holds the smallest factor of `i` writes
the multiples of `i` by the primes up to that factor (R69). -/
theorem sieveInner_tabulates {N i : Nat} (hi : 2 ≤ i) (ps : List Nat) {t : SieveTable}
    {W : Nat → Prop} (h : t.Tabulates N W) (hW : W i) (hiN : i ≤ N)
    (hprime : ∀ p ∈ ps, p.Prime) (hsorted : ps.Pairwise (· < ·)) (hmem : i.minFac ∈ ps) :
    (sieveInner N i ps t).Tabulates N
      (fun k => W k ∨ ∃ p ∈ ps, p ≤ i.minFac ∧ k = i * p) := by
  induction ps generalizing t W with
  | nil => simp at hmem
  | cons p ps ih =>
    obtain ⟨hbelow, hsorted'⟩ := List.pairwise_cons.mp hsorted
    have hp : p.Prime := hprime p List.mem_cons_self
    have hle : p ≤ i.minFac := by
      rcases List.mem_cons.mp hmem with heq | hin
      · exact heq.ge
      · exact (hbelow _ hin).le
    rw [sieveInner]
    split
    next hbeyond =>
      refine h.congr fun k hk => ⟨.inl, fun hor => hor.resolve_right ?_⟩
      rintro ⟨q, hq, _, rfl⟩
      have hpq : p ≤ q := by
        rcases List.mem_cons.mp hq with rfl | hin
        · exact le_rfl
        · exact (hbelow q hin).le
      have := Nat.mul_le_mul_left i hpq
      omega
    next hwithin =>
      split
      next hmod =>
        obtain rfl : p = i.minFac := eq_minFac_of_dvd hp (Nat.dvd_of_mod_eq_zero hmod) hle
        refine (h.put_repeated hi (h.written i hiN hW) (by omega)).congr fun k _ =>
          or_congr_right ⟨fun hk => ⟨_, List.mem_cons_self, le_rfl, hk⟩, ?_⟩
        rintro ⟨q, hq, hqle, rfl⟩
        rcases List.mem_cons.mp hq with rfl | hin
        · rfl
        · exact absurd (hbelow q hin) hqle.not_gt
      next hmod =>
        have hdvd : ¬ p ∣ i := fun hd => hmod (Nat.mod_eq_zero_of_dvd hd)
        have hin : i.minFac ∈ ps := by
          rcases List.mem_cons.mp hmem with heq | hin
          · exact absurd (heq ▸ Nat.minFac_dvd i) hdvd
          · exact hin
        have hput := h.put_new hi (h.written i hiN hW) hp hle hdvd (by omega)
        refine (ih hput (.inl hW) (fun q hq => hprime q (List.mem_cons_of_mem p hq)) hsorted'
          hin).congr fun k _ => ?_
        simp [hle, or_assoc]

/-! ### The pass -/

/-- The entries written before the pass reaches `i`: everything below it, and the composites whose
cofactor has been visited (R69). -/
def WrittenBefore (i k : Nat) : Prop := k < i ∨ (¬ k.Prime ∧ k / k.minFac < i)

/-- The primes below `n` in increasing order. -/
def primesBelow (n : Nat) : List Nat := (List.range n).filter (fun k => decide (Nat.Prime k))

theorem mem_primesBelow {n p : Nat} : p ∈ primesBelow n ↔ p < n ∧ p.Prime := by
  simp [primesBelow]

theorem primesBelow_pairwise (n : Nat) : (primesBelow n).Pairwise (· < ·) :=
  List.Pairwise.filter _ List.pairwise_lt_range

theorem primesBelow_succ (n : Nat) :
    primesBelow (n + 1) = primesBelow n ++ if n.Prime then [n] else [] := by
  by_cases h : n.Prime <;> simp [primesBelow, List.range_succ, h]

/-- At the turn of `i` its entry has been written exactly if it is composite (R69). -/
theorem writtenBefore_self_iff {i : Nat} (hi : 2 ≤ i) : WrittenBefore i i ↔ ¬ i.Prime := by
  have hdiv : i / i.minFac < i :=
    Nat.div_lt_self (by omega) (Nat.minFac_prime (by omega)).one_lt
  simp [WrittenBefore, hdiv]

/-- A number with cofactor `i` is `i` times a prime up to the smallest factor of `i` (R69). -/
theorem exists_prime_mul_of_cofactor {i k : Nat} (hi : 2 ≤ i) (h : k / k.minFac = i) :
    ∃ p ∈ primesBelow (i + 1), p ≤ i.minFac ∧ k = i * p := by
  have hk : i ≤ k := h ▸ Nat.div_le_self k k.minFac
  have hmul : k = i * k.minFac := by rw [← h, Nat.div_mul_cancel (Nat.minFac_dvd k)]
  have hdvd : i.minFac ∣ k := (Nat.minFac_dvd i).trans (Dvd.intro _ hmul.symm)
  have hle : k.minFac ≤ i.minFac :=
    Nat.minFac_le_of_dvd (Nat.minFac_prime (by omega)).two_le hdvd
  have hlei : i.minFac ≤ i := Nat.minFac_le (by omega)
  exact ⟨k.minFac, mem_primesBelow.mpr ⟨by omega, Nat.minFac_prime (by omega)⟩, hle, hmul⟩

/-- Such a product is a composite with cofactor `i` (R69). -/
theorem not_prime_and_cofactor_mul_prime {i p : Nat} (hi : 2 ≤ i) (hp : p.Prime)
    (hle : p ≤ i.minFac) : ¬ (i * p).Prime ∧ i * p / (i * p).minFac = i := by
  rw [minFac_mul_prime hp hle, Nat.mul_div_cancel i hp.pos]
  exact ⟨Nat.not_prime_mul (by omega) hp.one_lt.ne', rfl⟩

/-- The turn of `i` writes `i` itself, if it is prime, and the composites with cofactor `i` (R69).
-/
theorem writtenBefore_succ_iff {i k : Nat} (hi : 2 ≤ i) :
    WrittenBefore (i + 1) k ↔ (WrittenBefore i k ∨ k = i) ∨
      ∃ p ∈ primesBelow (i + 1), p ≤ i.minFac ∧ k = i * p := by
  constructor
  · rintro (hlt | ⟨hc, hd⟩)
    · rcases Nat.lt_succ_iff_lt_or_eq.mp hlt with hlt' | heq
      · exact .inl (.inl (.inl hlt'))
      · exact .inl (.inr heq)
    · rcases Nat.lt_succ_iff_lt_or_eq.mp hd with hd' | heq
      · exact .inl (.inl (.inr ⟨hc, hd'⟩))
      · exact .inr (exists_prime_mul_of_cofactor hi heq)
  · rintro (((hlt | ⟨hc, hd⟩) | rfl) | ⟨p, hp, hle, rfl⟩)
    · exact .inl (hlt.trans (Nat.lt_succ_self i))
    · exact .inr ⟨hc, hd.trans (Nat.lt_succ_self i)⟩
    · exact .inl (Nat.lt_succ_self k)
    · obtain ⟨hc, hd⟩ := not_prime_and_cofactor_mul_prime hi (mem_primesBelow.mp hp).2 hle
      exact .inr ⟨hc, by rw [hd]; exact Nat.lt_succ_self i⟩

/-- The table and the prime list before the pass reaches `i` (R69). -/
structure SieveTable.PassedBelow (t : SieveTable) (N i : Nat) : Prop where
  tabulates : t.Tabulates N (WrittenBefore i)
  primes : t.primes = primesBelow i

/-- The cofactor of a composite's smallest prime factor is at least 2. -/
theorem two_le_div_minFac {k : Nat} (hk : 2 ≤ k) (hc : ¬ k.Prime) : 2 ≤ k / k.minFac := by
  have hprime : k.minFac.Prime := Nat.minFac_prime (by omega)
  have hmul : k / k.minFac * k.minFac = k := Nat.div_mul_cancel (Nat.minFac_dvd k)
  by_contra hlt
  obtain h0 | h1 : k / k.minFac = 0 ∨ k / k.minFac = 1 :=
    Nat.le_one_iff_eq_zero_or_eq_one.mp (Nat.lt_succ_iff.mp (not_le.mp hlt))
  · rw [h0, zero_mul] at hmul
    omega
  · rw [h1, one_mul] at hmul
    exact hc (hmul ▸ hprime)

/-- The zero fill holds the values of entries 0 and 1, and no prime is below 2 (R69). -/
theorem sieveInit_passedBelow {N : Nat} (hN : 1 ≤ N) : (sieveInit N).PassedBelow N 2 := by
  refine ⟨⟨sieveInit_reaches N, fun k hk hW => ?written, fun k hk _ => ?unwritten⟩, ?primes⟩
  case written =>
    have hk2 : k < 2 := by
      rcases hW with hlt | ⟨hc, hd⟩
      · exact hlt
      · by_contra hge
        exact absurd hd (two_le_div_minFac (by omega) hc).not_gt
    obtain rfl | rfl : k = 0 ∨ k = 1 := by omega
    · constructor <;> simp [sieveInit, spfValue, exptValue]
    · have hN0 : N ≠ 0 := by omega
      constructor <;>
        simp [sieveInit, spfValue, exptValue, List.getElem?_replicate, List.getElem?_set, hN0]
  case unwritten => simp [sieveInit, Nat.lt_succ_of_le hk]
  case primes =>
    have hnone : primesBelow 2 = [] := by decide
    exact hnone.symm

/-- The visit of `i` writes its entry if it is prime, and lists it (R69). -/
theorem sieveVisit_tabulates {t : SieveTable} {N i : Nat} (h : t.PassedBelow N i) (hi : 2 ≤ i)
    (hiN : i ≤ N) :
    (sieveVisit i t).Tabulates N (fun k => WrittenBefore i k ∨ k = i) ∧
      (sieveVisit i t).primes = primesBelow (i + 1) := by
  by_cases hp : i.Prime
  · have hzero : t.spf.getD i 0 = 0 := by
      rw [List.getD_eq_getElem?_getD,
        h.tabulates.unwritten i hiN (by simpa [writtenBefore_self_iff hi] using hp)]
      rfl
    rw [sieveVisit, if_pos hzero, primesBelow_succ, if_pos hp, ← h.primes]
    refine ⟨(h.tabulates.put hiN ?_ ?_ ?_ ?_).withPrimes _, rfl⟩
    · rw [spfValue, if_neg (by omega), hp.minFac_eq]
    · rw [exptValue_prime hp]
    · rw [Nat.totient_prime hp]
    · rw [ArithmeticFunction.moebius_apply_prime hp]
  · have hW : WrittenBefore i i := (writtenBefore_self_iff hi).mpr hp
    have hspf : t.spf.getD i 0 = i.minFac := by
      rw [List.getD_eq_getElem?_getD, (h.tabulates.written i hiN hW).spf, spfValue,
        if_neg (by omega)]
      rfl
    have hne : i.minFac ≠ 0 := (Nat.minFac_pos i).ne'
    rw [sieveVisit, hspf, if_neg hne, primesBelow_succ, if_neg hp, List.append_nil]
    refine ⟨h.tabulates.congr fun k _ => ⟨.inl, ?_⟩, h.primes⟩
    rintro (hk | rfl)
    exacts [hk, hW]

/-- One turn of the pass (R69). -/
theorem sieveOuter_passedBelow {t : SieveTable} {N i : Nat} (h : t.PassedBelow N i) (hi : 2 ≤ i)
    (hiN : i ≤ N) : (sieveOuter N t i).PassedBelow N (i + 1) := by
  obtain ⟨hvisit, hprimes⟩ := sieveVisit_tabulates h hi hiN
  have hminFac : i.minFac ∈ primesBelow (i + 1) :=
    mem_primesBelow.mpr ⟨Nat.lt_succ_of_le (Nat.minFac_le (by omega)), Nat.minFac_prime (by omega)⟩
  have hinner := sieveInner_tabulates hi (primesBelow (i + 1)) hvisit (.inr rfl) hiN
    (fun p hp => (mem_primesBelow.mp hp).2) (primesBelow_pairwise _) hminFac
  rw [sieveOuter, hprimes]
  exact ⟨hinner.congr fun k _ => (writtenBefore_succ_iff hi).symm,
    (sieveInner_spec i _ _ hvisit.reaches).2.trans hprimes⟩

/-- The pass over `2, …, n + 1` (R69). -/
theorem sievePass_passedBelow {N : Nat} (hN : 1 ≤ N) (n : Nat) (hn : n + 1 ≤ N) :
    ((List.range' 2 n).foldl (sieveOuter N) (sieveInit N)).PassedBelow N (n + 2) := by
  induction n with
  | zero => exact sieveInit_passedBelow hN
  | succ n ih =>
    rw [List.range'_concat, List.foldl_concat, one_mul, add_comm 2 n]
    exact sieveOuter_passedBelow (ih (by omega)) (by omega) (by omega)

/-- A built table holds the value of every entry, and lists the primes up to its bound (R71). -/
theorem linearSieve_passedBelow {N : Nat} (hN : 1 ≤ N) :
    (linearSieve N).PassedBelow N (N + 1) := by
  have hpass := sievePass_passedBelow hN (N - 1) (by omega)
  rwa [show N - 1 + 2 = N + 1 by omega] at hpass

theorem linearSieve_entryOk {N k : Nat} (hN : 1 ≤ N) (hk : k ≤ N) : (linearSieve N).EntryOk k :=
  (linearSieve_passedBelow hN).tabulates.written k hk (.inl (by omega))

theorem linearSieve_primes {N : Nat} (hN : 1 ≤ N) : (linearSieve N).primes = primesBelow (N + 1) :=
  (linearSieve_passedBelow hN).primes

/-- Settles O20: the reach of the arrays, the prime list and SPF of a built table. -/
theorem linearSieveFindsThePrimes : Obligations.LinearSieveFindsThePrimes := by
  intro N hN
  obtain ⟨hspf, hexpt, hphi, hmu⟩ := (linearSieve_reaches N).1
  exact ⟨hspf, hexpt, hphi, hmu, linearSieve_primes hN, fun k hk => (linearSieve_entryOk hN hk).spf⟩

/-- Settles O21: PHI, MU and EXPT of a built table. -/
theorem linearSieveTabulatesArithmeticFunctions :
    Obligations.LinearSieveTabulatesArithmeticFunctions := by
  intro N k hN hk
  obtain ⟨_, hexpt, hphi, hmu⟩ := linearSieve_entryOk hN hk
  exact ⟨hphi, hmu, hexpt⟩

/-! ### The prime list as a count and as a sequence -/

/-- The number of primes below `n` is the length of their list. -/
theorem primesBelow_length (n : Nat) : (primesBelow n).length = Nat.count Nat.Prime n :=
  List.countP_eq_length_filter.symm

/-- Entry `j` of the list is the `j`-th prime, counted from 0. -/
theorem primesBelow_getElem? {n j : Nat} (h : j < Nat.count Nat.Prime n) :
    (primesBelow n)[j]? = some (Nat.nth Nat.Prime j) := by
  induction n with
  | zero => simp at h
  | succ n ih =>
    rw [primesBelow_succ]
    by_cases hj : j < Nat.count Nat.Prime n
    · rw [List.getElem?_append_left (by rwa [primesBelow_length]), ih hj]
    · have hn : n.Prime := by
        by_contra hn
        rw [Nat.count_succ, if_neg hn] at h
        omega
      rw [Nat.count_succ, if_pos hn] at h
      obtain rfl : j = Nat.count Nat.Prime n := by omega
      rw [if_pos hn, ← primesBelow_length, List.getElem?_concat_length, primesBelow_length,
        Nat.nth_count hn]

/-- A built table lists as many primes as there are up to its bound (R71). -/
theorem linearSieve_primes_length {N : Nat} (hN : 1 ≤ N) :
    (linearSieve N).primes.length = Nat.primeCounting N := by
  rw [linearSieve_primes hN, primesBelow_length]
  rfl

/-- Settles O19: RES0 and SIEVE_COUNT are the length of the built list. -/
theorem sieveBuildCountsThePrimes : Obligations.SieveBuildCountsThePrimes := by
  intro s h1 hmax
  have hcount := (primes_length_toNat hmax).trans (linearSieve_primes_length h1)
  exact ⟨_, exec_sieveBuild_of_valid h1 hmax, hcount, hcount⟩

/-! ### The accessors of a built table (R73 to R78) -/

/-- SPF equals the index exactly for primes (R71). -/
theorem one_lt_and_spfValue_eq_self_iff (k : Nat) : 1 < k ∧ spfValue k = k ↔ k.Prime := by
  rw [Nat.prime_def_minFac]
  refine and_congr_right fun hk => ?_
  rw [spfValue, if_neg (by omega)]

/-- Settles O24: the invariant makes the table that of LinearSieve, whose entries are the arithmetic
functions' values. -/
theorem accessorsGiveTheArithmeticFunctions : Obligations.AccessorsGiveTheArithmeticFunctions := by
  intro s hinv hbuilt k
  have hN : 1 ≤ s.sieveN.toNat := (hinv.bound hbuilt).1
  have htable : s.table = linearSieve s.sieveN.toNat := hinv.complete_table hbuilt
  obtain ⟨harrays, hprimes⟩ := accessorsReadOneEntry s hbuilt
  refine ⟨fun hk => ?arrays, fun hk => ?primes⟩
  case arrays =>
    obtain ⟨hspf, hexpt, hphi, hmu⟩ : s.table.EntryOk k := htable ▸ linearSieve_entryOk hN hk
    obtain ⟨readSpf, readExpt, readPhi, readMu, readIsprime⟩ := harrays hk
    refine ⟨readSpf _ hspf, readExpt _ hexpt, readPhi _ hphi, readMu _ hmu, ?_⟩
    rw [readIsprime _ hspf, if_congr (one_lt_and_spfValue_eq_self_iff k) rfl rfl]
  case primes =>
    have hlength : s.table.primes.length = Nat.primeCounting s.sieveN.toNat := by
      rw [htable, linearSieve_primes_length hN]
    have hlisted : s.table.primes[k]? = some (Nat.nth Nat.Prime k) := by
      rw [htable, linearSieve_primes hN]
      exact primesBelow_getElem? hk
    exact hprimes (by rw [hinv.count hbuilt, hlength]; exact hk) _ hlisted

end Sys2Proof.Machine
end
